-- ==== Sys2Proof/Word.lean ====
section
/-! DEFINITION. The word types of the block: register values, bytes of the transport, operation words. -/

namespace Sys2Proof

/-- A register value or a bus data value: 32 bits (00_scope.md R6 `XLEN_REG`, D1). -/
abbrev Word := BitVec 32

/-- A byte of the transport (41_uart.md R101, R110). -/
abbrev Byte := BitVec 8

/-- An operation word: the 10-bit selector of 30_encoding.md R62 in bits 9..0 and, above it, the operand fields of
`Sys2Proof.OpFields` (the model's own layout, assumption log 3). -/
abbrev OpWord := BitVec 112

end Sys2Proof
end

