-- ==== Sys2Proof/Config.lean ====
section
/-! DEFINITION. What is fixed at construction (00_scope.md R6, R8; 10_state.md R15): the parameters of a model, which of them are
legal, and the values the spec leaves OPEN. A configuration is plain data held in the machine's state, so that a claim
quantifies over all of them (assumption log 1). -/

namespace Sys2Proof

/-- The two modes of an EventRegisterBlock (40_event_register_block.md R88): `A` is mode (a), "strict"; `B` is mode (b),
"latch-tracks-enable". -/
inductive Mode where
  | A
  | B
deriving DecidableEq, Repr

/-- `SET_ENABLE_RELATCH` (00_scope.md R6, D10): which enabled bits a mode (b) enable write re-latches from status. -/
inductive EnableRelatch where
  | newlyEnabled
  | allEnabled
deriving DecidableEq, Repr

/-- The two peripherals that embed an EventRegisterBlock (00_scope.md R1). -/
inductive Dev where
  | uart
  | timer
deriving DecidableEq, Repr

/-- The number of defined event bits of a device: TX and RX; ZERO (10_state.md R25). -/
def Dev.eventCount : Dev → Nat
  | .uart => 2
  | .timer => 1

/-- `EV_MASK`, the legal event bits of a device (00_scope.md R6, fixed). -/
def Dev.evMask : Dev → Word
  | .uart => 0x00000003#32
  | .timer => 0x00000001#32

/-- The four pseudo-registers of the controller (10_state.md R24). -/
inductive PseudoReg where
  | mIrqEnable
  | mIrqPending
  | sIrqEnable
  | sIrqPending
deriving DecidableEq, Repr

/-- The configuration record of one EventRegisterBlock instance (10_state.md R15). -/
structure BlockConfig where
  /-- `EV_MASK`, the legal event bits. -/
  evMask : Word
  /-- `MODE`. -/
  mode : Mode
  /-- `CLEAR_RELATCH`, read only in mode A. -/
  clearRelatch : Bool
  /-- `SET_ENABLE_RELATCH`, read only in mode B. -/
  relatch : EnableRelatch
deriving DecidableEq, Repr

/-- The OPEN parameters of 00_scope.md R6 that the machine assembler fixes (D20 to D23). -/
structure Wiring where
  /-- `NUM_LINES - 1`, the index of the controller's highest input line: NUM_LINES is at least 1 (R6). -/
  lastLine : Nat
  /-- `UART_IRQ_LINE`. -/
  uartIrqLine : Nat
  /-- `TIMER_IRQ_LINE`. -/
  timerIrqLine : Nat
  /-- `UART_BASE`. -/
  uartBase : Nat
  /-- `TIMER_BASE`. -/
  timerBase : Nat
  /-- `WINDOW_SIZE`. -/
  windowSize : Nat
  /-- `TIMER_FREQ_HZ`. DESIGN CHOICE (assumption log 16): a whole number of Hz; the spec says only that it is positive (R6). -/
  timerFreqHz : Nat
  /-- The CPU control-register number of `M_IRQ_ENABLE`. -/
  mIrqEnableId : Nat
  /-- The CPU control-register number of `M_IRQ_PENDING`. -/
  mIrqPendingId : Nat
  /-- The CPU control-register number of `S_IRQ_ENABLE`. -/
  sIrqEnableId : Nat
  /-- The CPU control-register number of `S_IRQ_PENDING`. -/
  sIrqPendingId : Nat
deriving DecidableEq, Repr

/-- `NUM_LINES`, the number of controller input lines (00_scope.md R6). -/
def Wiring.numLines (w : Wiring) : Nat := w.lastLine + 1

/-- A legal wiring (00_scope.md R6, R8; 20_memory.md R47; 93 U9): at most 32 lines, both peripherals on lines that exist and
that differ, windows of at least 0x20 bytes that do not overlap, and a positive tick rate.

DESIGN CHOICE (assumption log 24): the last conjunct, that the four pseudo-register numbers differ from each other, is the
model's; the spec leaves the numbers OPEN and asks nothing of them (R6, 43 R179, D21). Safe. -/
def Wiring.legal (w : Wiring) : Bool :=
  decide (w.numLines ≤ 32)
    && decide (w.uartIrqLine < w.numLines) && decide (w.timerIrqLine < w.numLines)
    && decide (w.uartIrqLine ≠ w.timerIrqLine)
    && decide (0x20 ≤ w.windowSize)
    && decide (w.uartBase + w.windowSize ≤ w.timerBase ∨ w.timerBase + w.windowSize ≤ w.uartBase)
    && decide (0 < w.timerFreqHz)
    && decide ([w.mIrqEnableId, w.mIrqPendingId, w.sIrqEnableId, w.sIrqPendingId].Nodup)

/-- A wiring with the fact that it is legal. The defaults only show that there is one: they are the test configuration of
95_test_vectors.md ("for testing only and say nothing about any real machine"). -/
structure LegalWiring where
  wiring : Wiring :=
    { lastLine := 31, uartIrqLine := 0, timerIrqLine := 1, uartBase := 0, timerBase := 0x100, windowSize := 0x100,
      timerFreqHz := 1, mIrqEnableId := 0, mIrqPendingId := 1, sIrqEnableId := 2, sIrqPendingId := 3 }
  legal : wiring.legal = true := by decide
deriving Inhabited

/-- The parameters of a model of the block (00_scope.md R6). -/
structure Config where
  /-- `UART.MODE`. -/
  uartMode : Mode
  /-- `SET_ENABLE_RELATCH`. -/
  enableRelatch : EnableRelatch
  /-- `UART_RESET_PENDING`. -/
  uartResetPending : Word
  /-- A byte transport is present (00_scope.md R8, 70_reset_and_hazards.md R225). -/
  transport : Bool
  /-- The OPEN parameters. -/
  wiring : Wiring
deriving DecidableEq, Repr

/-- A legal configuration (00_scope.md R6, R8; conflict C2): the wiring is legal, there is a transport, `UART_RESET_PENDING` is
0x0 or 0x1, and it is 0x0 when `UART.MODE = B`. -/
def Config.legal (c : Config) : Bool :=
  c.wiring.legal && c.transport
    && (decide (c.uartResetPending = 0x0#32)
        || (decide (c.uartResetPending = 0x1#32) && decide (c.uartMode = .A)))

/-- The OPEN wiring of the machine (00_scope.md R6; D20 to D23; 91 N8, N12, N20, N26): some legal wiring, of which nothing
else is known. DESIGN CHOICE (assumption log 1). Safe: nothing can be proved of it but that it is legal. -/
opaque Config.openWiring : LegalWiring

/-- `UART_RX_RESET`, drawn at each reset of the UART (10_state.md R27; D9; 93 U6): an arbitrary byte of which nothing is
known. DESIGN CHOICE (assumption log 2). Safe: a claim holds for every value of it. -/
opaque Config.uartRxReset : Nat → Byte

/-- The configuration of the machine that `State.reset` stands for: the spec's defaults (00_scope.md R6: `UART.MODE = B`,
`SET_ENABLE_RELATCH = newly_enabled`, `UART_RESET_PENDING = 0x0`), a transport, and the OPEN wiring. -/
def Config.standard : Config where
  uartMode := .B
  enableRelatch := .newlyEnabled
  uartResetPending := 0x0#32
  transport := true
  wiring := Config.openWiring.wiring

end Sys2Proof
end

