-- ==== Sys2Proof/Syntax.lean ====
section
/-! DEFINITION. The operations of the block (30_encoding.md R60), one constructor per row of spec/opcode_table.json. -/

namespace Sys2Proof

/-- The operations (30_encoding.md R60 to R66). `n` is the access width in bytes, `v` the write data, `off` a byte offset that
names no register, `dev` the instance an EventRegisterBlock operation acts on. -/
inductive Instr where
  -- UART bus reads (R63)
  | uartRdRxtx (n : Nat)
  | uartRdTxfull (n : Nat)
  | uartRdRxempty (n : Nat)
  | uartRdEvStatus (n : Nat)
  | uartRdEvPending (n : Nat)
  | uartRdEvEnable (n : Nat)
  | uartRdTxempty (n : Nat)
  | uartRdRxfull (n : Nat)
  | uartRdOther (off n : Nat)
  -- UART bus writes (R63)
  | uartWrRxtx (n : Nat) (v : Word)
  | uartWrTxfull (n : Nat) (v : Word)
  | uartWrRxempty (n : Nat) (v : Word)
  | uartWrEvStatus (n : Nat) (v : Word)
  | uartWrEvPending (n : Nat) (v : Word)
  | uartWrEvEnable (n : Nat) (v : Word)
  | uartWrTxempty (n : Nat) (v : Word)
  | uartWrRxfull (n : Nat) (v : Word)
  | uartWrOther (off n : Nat) (v : Word)
  -- UART inputs and reset (R63)
  | uartInByteReceived (b : Byte)
  | uartInCanAcceptByte
  | uartReset
  -- timer bus reads (R64)
  | timerRdLoad (n : Nat)
  | timerRdReload (n : Nat)
  | timerRdEn (n : Nat)
  | timerRdUpdateValue (n : Nat)
  | timerRdValue (n : Nat)
  | timerRdEvStatus (n : Nat)
  | timerRdEvPending (n : Nat)
  | timerRdEvEnable (n : Nat)
  | timerRdOther (off n : Nat)
  -- timer bus writes (R64)
  | timerWrLoad (n : Nat) (v : Word)
  | timerWrReload (n : Nat) (v : Word)
  | timerWrEnStart (n : Nat) (v : Word)
  | timerWrEnStop (n : Nat) (v : Word)
  | timerWrUpdateValue (n : Nat) (v : Word)
  | timerWrValue (n : Nat) (v : Word)
  | timerWrEvStatus (n : Nat) (v : Word)
  | timerWrEvPending (n : Nat) (v : Word)
  | timerWrEvEnable (n : Nat) (v : Word)
  | timerWrOther (off n : Nat) (v : Word)
  -- timer inputs and reset (R64)
  | timerInTick
  | timerInUnderflow
  | timerReset
  -- controller pseudo-registers, input and reset (R65)
  | intcRdMIrqEnable
  | intcRdMIrqPending
  | intcRdSIrqEnable
  | intcRdSIrqPending
  | intcWrMIrqEnable (v : Word)
  | intcWrMIrqPending (v : Word)
  | intcWrSIrqEnable (v : Word)
  | intcWrSIrqPending (v : Word)
  | intcInRequest (line : Nat) (level : Bool)
  | intcReset
  -- EventRegisterBlock operations and system reset (R66)
  | erbReadStatus (dev : Dev)
  | erbReadPending (dev : Dev)
  | erbReadEnable (dev : Dev)
  | erbIrqLevel (dev : Dev)
  | erbClearPending (dev : Dev) (mask : Word)
  | erbSetEnable (dev : Dev) (newEnable : Word)
  | erbSignalEvent (dev : Dev) (bit : Nat)
  | erbClearStatus (dev : Dev) (mask : Word)
  | sysReset
deriving DecidableEq, Repr

end Sys2Proof
end

