-- ==== Sys2Proof/WellFormed.lean ====
section
/-! DEFINITION. When an operation's operands are what 30_encoding.md R60, R61 and R67 allow. -/

namespace Sys2Proof

/-- The access widths: 1, 2, 3 and 4 bytes (20_memory.md R45). -/
def widthOk (n : Nat) : Bool := decide (1 ≤ n) && decide (n ≤ 4)

/-- Write data of an access of `n` bytes is an `n`-byte value (20_memory.md R42, 30_encoding.md R61). -/
def dataFits (n : Nat) (v : Word) : Bool := decide (v.toNat < 2 ^ (8 * n))

/-- The eight listed offsets of each register window (20_memory.md R44). -/
def offsetListed (off : Nat) : Bool := decide (off % 4 = 0) && decide (off ≤ 0x1C)

/-- An offset of a catch-all row: not a listed one (20_memory.md R44), and within what an operation word can carry
(assumption log 3). -/
def offsetOther (off : Nat) : Bool := !offsetListed off && decide (off < 2 ^ 70)

/-- The well-formed operations. -/
def Instr.wellFormed : Instr → Bool
  | .uartRdRxtx n => widthOk n
  | .uartRdTxfull n => widthOk n
  | .uartRdRxempty n => widthOk n
  | .uartRdEvStatus n => widthOk n
  | .uartRdEvPending n => widthOk n
  | .uartRdEvEnable n => widthOk n
  | .uartRdTxempty n => widthOk n
  | .uartRdRxfull n => widthOk n
  | .uartRdOther off n => offsetOther off && widthOk n
  | .uartWrRxtx n v => widthOk n && dataFits n v
  | .uartWrTxfull n v => widthOk n && dataFits n v
  | .uartWrRxempty n v => widthOk n && dataFits n v
  | .uartWrEvStatus n v => widthOk n && dataFits n v
  | .uartWrEvPending n v => widthOk n && dataFits n v
  | .uartWrEvEnable n v => widthOk n && dataFits n v
  | .uartWrTxempty n v => widthOk n && dataFits n v
  | .uartWrRxfull n v => widthOk n && dataFits n v
  | .uartWrOther off n v => offsetOther off && widthOk n && dataFits n v
  | .uartInByteReceived _ => true
  | .uartInCanAcceptByte => true
  | .uartReset => true
  | .timerRdLoad n => widthOk n
  | .timerRdReload n => widthOk n
  | .timerRdEn n => widthOk n
  | .timerRdUpdateValue n => widthOk n
  | .timerRdValue n => widthOk n
  | .timerRdEvStatus n => widthOk n
  | .timerRdEvPending n => widthOk n
  | .timerRdEvEnable n => widthOk n
  | .timerRdOther off n => offsetOther off && widthOk n
  | .timerWrLoad n v => widthOk n && dataFits n v
  | .timerWrReload n v => widthOk n && dataFits n v
  | .timerWrEnStart n v => widthOk n && dataFits n v && v.getLsbD 0
  | .timerWrEnStop n v => widthOk n && dataFits n v && !v.getLsbD 0
  | .timerWrUpdateValue n v => widthOk n && dataFits n v
  | .timerWrValue n v => widthOk n && dataFits n v
  | .timerWrEvStatus n v => widthOk n && dataFits n v
  | .timerWrEvPending n v => widthOk n && dataFits n v
  | .timerWrEvEnable n v => widthOk n && dataFits n v
  | .timerWrOther off n v => offsetOther off && widthOk n && dataFits n v
  | .timerInTick => true
  | .timerInUnderflow => true
  | .timerReset => true
  | .intcRdMIrqEnable => true
  | .intcRdMIrqPending => true
  | .intcRdSIrqEnable => true
  | .intcRdSIrqPending => true
  | .intcWrMIrqEnable _ => true
  | .intcWrMIrqPending _ => true
  | .intcWrSIrqEnable _ => true
  | .intcWrSIrqPending _ => true
  | .intcInRequest line _ => decide (line < 2 ^ 32)
  | .intcReset => true
  | .erbReadStatus _ => true
  | .erbReadPending _ => true
  | .erbReadEnable _ => true
  | .erbIrqLevel _ => true
  | .erbClearPending _ _ => true
  | .erbSetEnable _ _ => true
  | .erbSignalEvent dev bit => decide (bit < dev.eventCount)
  | .erbClearStatus dev mask => decide (mask &&& ~~~dev.evMask = 0#32)
  | .sysReset => true

end Sys2Proof
end

