-- ==== Sys2Proof/Decode.lean ====
section
/-! DEFINITION. The decoder, total on every operation word and rejecting by name, and after it the encoder. The selector is that
of 30_encoding.md R62 to R66; the operand fields above it are the model's own (assumption log 3). The four offset maps are also what
the bus dispatch by address uses (20_memory.md R41, R42). -/

namespace Sys2Proof

/-! ## Offsets -/

/-- The UART register a bus read at byte offset `off` selects (30_encoding.md R63; exact match, 20_memory.md R44). -/
def uartReadAt (off n : Nat) : Instr :=
  match off with
  | 0x00 => .uartRdRxtx n
  | 0x04 => .uartRdTxfull n
  | 0x08 => .uartRdRxempty n
  | 0x0C => .uartRdEvStatus n
  | 0x10 => .uartRdEvPending n
  | 0x14 => .uartRdEvEnable n
  | 0x18 => .uartRdTxempty n
  | 0x1C => .uartRdRxfull n
  | _ => .uartRdOther off n

/-- The UART register a bus write at byte offset `off` selects (30_encoding.md R63; 20_memory.md R44). -/
def uartWriteAt (off n : Nat) (v : Word) : Instr :=
  match off with
  | 0x00 => .uartWrRxtx n v
  | 0x04 => .uartWrTxfull n v
  | 0x08 => .uartWrRxempty n v
  | 0x0C => .uartWrEvStatus n v
  | 0x10 => .uartWrEvPending n v
  | 0x14 => .uartWrEvEnable n v
  | 0x18 => .uartWrTxempty n v
  | 0x1C => .uartWrRxfull n v
  | _ => .uartWrOther off n v

/-- The timer register a bus read at byte offset `off` selects (30_encoding.md R64; 20_memory.md R44). -/
def timerReadAt (off n : Nat) : Instr :=
  match off with
  | 0x00 => .timerRdLoad n
  | 0x04 => .timerRdReload n
  | 0x08 => .timerRdEn n
  | 0x0C => .timerRdUpdateValue n
  | 0x10 => .timerRdValue n
  | 0x14 => .timerRdEvStatus n
  | 0x18 => .timerRdEvPending n
  | 0x1C => .timerRdEvEnable n
  | _ => .timerRdOther off n

/-- The timer register a bus write at byte offset `off` selects; the EN write is split on bit 0 of the data
(30_encoding.md R62, R64; 20_memory.md R44). -/
def timerWriteAt (off n : Nat) (v : Word) : Instr :=
  match off with
  | 0x00 => .timerWrLoad n v
  | 0x04 => .timerWrReload n v
  | 0x08 => if v.getLsbD 0 then .timerWrEnStart n v else .timerWrEnStop n v
  | 0x0C => .timerWrUpdateValue n v
  | 0x10 => .timerWrValue n v
  | 0x14 => .timerWrEvStatus n v
  | 0x18 => .timerWrEvPending n v
  | 0x1C => .timerWrEvEnable n v
  | _ => .timerWrOther off n v
/-! ## The fields of an operation word -/

/-- The fields of an operation word, lowest first: `sel` bits 9..0, `OPSEL` (30_encoding.md R62); `wid` bits 11..10, the access
width with 0 for 4 bytes; `inst` bit 12, the instance of an EventRegisterBlock operation (0 UART, 1 timer); `lvl` bit 13, the
level of a request; `rsv` bits 15..14, zero; `data` bits 47..16, the write data, mask, byte, line or event bit number; `ext` bits
111..48, the offset divided by 0x40 (R62: an offset above 0x3F has no `idx` of its own). -/
structure OpFields where
  sel : BitVec 10
  wid : BitVec 2
  inst : BitVec 1
  lvl : BitVec 1
  rsv : BitVec 2
  data : BitVec 32
  ext : BitVec 64
deriving DecidableEq, Repr

/-- The fields of a word. -/
def unpack (w : OpWord) : OpFields where
  sel := w.extractLsb' 0 10
  wid := w.extractLsb' 10 2
  inst := w.extractLsb' 12 1
  lvl := w.extractLsb' 13 1
  rsv := w.extractLsb' 14 2
  data := w.extractLsb' 16 32
  ext := w.extractLsb' 48 64

/-- The word of the fields. -/
def pack (f : OpFields) : OpWord :=
  f.sel.setWidth 112 ||| (f.wid.setWidth 112 <<< 10) ||| (f.inst.setWidth 112 <<< 12) ||| (f.lvl.setWidth 112 <<< 13)
    ||| (f.rsv.setWidth 112 <<< 14) ||| (f.data.setWidth 112 <<< 16) ||| (f.ext.setWidth 112 <<< 48)

/-- Why an operation word names no operation (30_encoding.md R62; 93 section 2: "not operations"). -/
inductive DecodeError where
  /-- The selector is no row of the operation table. -/
  | noSuchOperation
  /-- An operand field that the operation does not have is not zero. -/
  | reservedBits
  /-- The write data does not fit the access width. -/
  | dataTooWide
  /-- The operand names no event bit of the instance. -/
  | undefinedEvent
deriving DecidableEq, Repr

/-! ## The decoder -/

/-- `idx`, the low six bits of the selector (30_encoding.md R62). -/
def OpFields.idx (f : OpFields) : Nat := f.sel.toNat % 0x40

/-- The byte offset of a bus access. -/
def OpFields.off (f : OpFields) : Nat := f.ext.toNat * 0x40 + f.idx

/-- The access width. -/
def OpFields.width (f : OpFields) : Nat := if f.wid = 0#2 then 4 else f.wid.toNat

/-- The instance. -/
def OpFields.dev (f : OpFields) : Dev := if f.inst = 0#1 then .uart else .timer

/-- The level. -/
def OpFields.level (f : OpFields) : Bool := f.lvl.getLsbD 0

/-- No bus operand: the width and the offset extension are zero. -/
def OpFields.noBus (f : OpFields) : Bool := decide (f.wid = 0#2) && decide (f.ext = 0#64)

/-- Neither an instance nor a level. -/
def OpFields.noInput (f : OpFields) : Bool := decide (f.inst = 0#1) && decide (f.lvl = 0#1)

/-- The operation, where the fields it does not have are zero. -/
def whenZero (c : Bool) (i : Instr) : Except DecodeError Instr := if c then .ok i else .error .reservedBits

/-- A bus read (shape BUSRD, 30_encoding.md R60). -/
def decodeBusRead (at_ : Nat → Nat → Instr) (f : OpFields) : Except DecodeError Instr :=
  whenZero (f.noInput && decide (f.data = 0#32)) (at_ f.off f.width)

/-- A bus write (shape BUSWR, 30_encoding.md R60): the data is an n-byte value (20_memory.md R42). -/
def decodeBusWrite (at_ : Nat → Nat → Word → Instr) (f : OpFields) : Except DecodeError Instr :=
  if dataFits f.width f.data then whenZero f.noInput (at_ f.off f.width f.data) else .error .dataTooWide

/-- An operation without operands. -/
def decodeBare (i : Instr) (f : OpFields) : Except DecodeError Instr :=
  whenZero (f.noBus && f.noInput && decide (f.data = 0#32)) i

/-- An operation whose operand is the 32-bit data. -/
def decodeData (i : Instr) (f : OpFields) : Except DecodeError Instr :=
  whenZero (f.noBus && f.noInput) i

/-- An operation of an EventRegisterBlock instance without a data operand. -/
def decodeErb (i : Instr) (f : OpFields) : Except DecodeError Instr :=
  whenZero (f.noBus && decide (f.lvl = 0#1) && decide (f.data = 0#32)) i

/-- An operation of an EventRegisterBlock instance with a data operand. -/
def decodeErbData (i : Instr) (f : OpFields) : Except DecodeError Instr :=
  whenZero (f.noBus && decide (f.lvl = 0#1)) i

/-- The reads of unit 0 (30_encoding.md R66). -/
def decodeErbRead (f : OpFields) : Except DecodeError Instr :=
  match f.idx with
  | 0 => decodeErb (.erbReadStatus f.dev) f
  | 1 => decodeErb (.erbReadPending f.dev) f
  | 2 => decodeErb (.erbReadEnable f.dev) f
  | 3 => decodeErb (.erbIrqLevel f.dev) f
  | _ => .error .noSuchOperation

/-- The writes of unit 0 (30_encoding.md R66). -/
def decodeErbWrite (f : OpFields) : Except DecodeError Instr :=
  match f.idx with
  | 1 => decodeErbData (.erbClearPending f.dev f.data) f
  | 2 => decodeErbData (.erbSetEnable f.dev f.data) f
  | _ => .error .noSuchOperation

/-- The internal events of unit 0 (30_encoding.md R66): the operands are inside `EV_MASK` (40 R86, R87). -/
def decodeErbEvent (f : OpFields) : Except DecodeError Instr :=
  match f.idx with
  | 0 => if f.data.toNat < f.dev.eventCount then decodeErbData (.erbSignalEvent f.dev f.data.toNat) f else .error .undefinedEvent
  | 1 => if f.data &&& ~~~f.dev.evMask = 0#32 then decodeErbData (.erbClearStatus f.dev f.data) f else .error .undefinedEvent
  | _ => .error .noSuchOperation

/-- The inputs of the UART (30_encoding.md R63). The byte is 8 bits: the data bits above it are zero. -/
def decodeUartIn (f : OpFields) : Except DecodeError Instr :=
  match f.idx with
  | 0 => if f.data.toNat < 0x100 then decodeData (.uartInByteReceived (f.data.setWidth 8)) f else .error .dataTooWide
  | 1 => decodeBare .uartInCanAcceptByte f
  | _ => .error .noSuchOperation

/-- The inputs of the timer (30_encoding.md R64). -/
def decodeTimerIn (f : OpFields) : Except DecodeError Instr :=
  match f.idx with
  | 0 => decodeBare .timerInTick f
  | 1 => decodeBare .timerInUnderflow f
  | _ => .error .noSuchOperation

/-- The pseudo-register reads (30_encoding.md R65). -/
def decodePseudoRead (f : OpFields) : Except DecodeError Instr :=
  match f.idx with
  | 0 => decodeBare .intcRdMIrqEnable f
  | 1 => decodeBare .intcRdMIrqPending f
  | 2 => decodeBare .intcRdSIrqEnable f
  | 3 => decodeBare .intcRdSIrqPending f
  | _ => .error .noSuchOperation

/-- The pseudo-register writes (30_encoding.md R65). -/
def decodePseudoWrite (f : OpFields) : Except DecodeError Instr :=
  match f.idx with
  | 0 => decodeData (.intcWrMIrqEnable f.data) f
  | 1 => decodeData (.intcWrMIrqPending f.data) f
  | 2 => decodeData (.intcWrSIrqEnable f.data) f
  | 3 => decodeData (.intcWrSIrqPending f.data) f
  | _ => .error .noSuchOperation

/-- The input of the controller (30_encoding.md R65). -/
def decodeIntcIn (f : OpFields) : Except DecodeError Instr :=
  match f.idx with
  | 0 => whenZero (f.noBus && decide (f.inst = 0#1)) (.intcInRequest f.data.toNat f.level)
  | _ => .error .noSuchOperation

/-- A reset (30_encoding.md R63 to R66): `idx` 0. -/
def decodeReset (i : Instr) (f : OpFields) : Except DecodeError Instr :=
  match f.idx with
  | 0 => decodeBare i f
  | _ => .error .noSuchOperation

/-- The operation the fields name: `unit` and `kind` are bits 9..6 of the selector (30_encoding.md R62). -/
def decodeFields (f : OpFields) : Except DecodeError Instr :=
  if f.rsv = 0#2 then
    match f.sel.toNat / 0x40 with
    | 0 => decodeErbRead f
    | 1 => decodeErbWrite f
    | 2 => decodeErbEvent f
    | 3 => decodeReset .sysReset f
    | 4 => decodeBusRead uartReadAt f
    | 5 => decodeBusWrite uartWriteAt f
    | 6 => decodeUartIn f
    | 7 => decodeReset .uartReset f
    | 8 => decodeBusRead timerReadAt f
    | 9 => decodeBusWrite timerWriteAt f
    | 10 => decodeTimerIn f
    | 11 => decodeReset .timerReset f
    | 12 => decodePseudoRead f
    | 13 => decodePseudoWrite f
    | 14 => decodeIntcIn f
    | 15 => decodeReset .intcReset f
    | _ => .error .noSuchOperation
  else .error .reservedBits

/-- The decoder, total on every operation word. -/
def decode (w : OpWord) : Except DecodeError Instr := decodeFields (unpack w)

/-! ## The encoder -/

/-- The fields of an operation without operands. -/
def bareFields (sel : BitVec 10) : OpFields :=
  { sel := sel, wid := 0#2, inst := 0#1, lvl := 0#1, rsv := 0#2, data := 0#32, ext := 0#64 }

/-- The fields of an operation with a data operand. -/
def dataFields (sel : BitVec 10) (v : Word) : OpFields := { bareFields sel with data := v }

/-- The fields of a bus write of `n` bytes at a listed offset: a width of 4 is 0. -/
def writeFields (sel : BitVec 10) (n : Nat) (v : Word) : OpFields := { dataFields sel v with wid := BitVec.ofNat 2 n }

/-- The fields of a bus read of `n` bytes at a listed offset. -/
def readFields (sel : BitVec 10) (n : Nat) : OpFields := writeFields sel n 0#32

/-- The fields of a bus access at an unlisted offset: `idx` is the offset's low six bits (30_encoding.md R62). -/
def otherFields (base off n : Nat) (v : Word) : OpFields :=
  { writeFields (BitVec.ofNat 10 (base + off % 0x40)) n v with ext := BitVec.ofNat 64 (off / 0x40) }

/-- The instance bit. -/
def Dev.bit : Dev → BitVec 1
  | .uart => 0#1
  | .timer => 1#1

/-- The fields of an EventRegisterBlock operation. -/
def erbFields (sel : BitVec 10) (dev : Dev) (v : Word) : OpFields := { dataFields sel v with inst := dev.bit }

/-- The fields of an operation (selectors: 30_encoding.md R63 to R66). -/
def encodeFields : Instr → OpFields
  | .uartRdRxtx n => readFields 0x100#10 n
  | .uartRdTxfull n => readFields 0x104#10 n
  | .uartRdRxempty n => readFields 0x108#10 n
  | .uartRdEvStatus n => readFields 0x10C#10 n
  | .uartRdEvPending n => readFields 0x110#10 n
  | .uartRdEvEnable n => readFields 0x114#10 n
  | .uartRdTxempty n => readFields 0x118#10 n
  | .uartRdRxfull n => readFields 0x11C#10 n
  | .uartRdOther off n => otherFields 0x100 off n 0#32
  | .uartWrRxtx n v => writeFields 0x140#10 n v
  | .uartWrTxfull n v => writeFields 0x144#10 n v
  | .uartWrRxempty n v => writeFields 0x148#10 n v
  | .uartWrEvStatus n v => writeFields 0x14C#10 n v
  | .uartWrEvPending n v => writeFields 0x150#10 n v
  | .uartWrEvEnable n v => writeFields 0x154#10 n v
  | .uartWrTxempty n v => writeFields 0x158#10 n v
  | .uartWrRxfull n v => writeFields 0x15C#10 n v
  | .uartWrOther off n v => otherFields 0x140 off n v
  | .uartInByteReceived b => dataFields 0x180#10 (b.setWidth 32)
  | .uartInCanAcceptByte => bareFields 0x181#10
  | .uartReset => bareFields 0x1C0#10
  | .timerRdLoad n => readFields 0x200#10 n
  | .timerRdReload n => readFields 0x204#10 n
  | .timerRdEn n => readFields 0x208#10 n
  | .timerRdUpdateValue n => readFields 0x20C#10 n
  | .timerRdValue n => readFields 0x210#10 n
  | .timerRdEvStatus n => readFields 0x214#10 n
  | .timerRdEvPending n => readFields 0x218#10 n
  | .timerRdEvEnable n => readFields 0x21C#10 n
  | .timerRdOther off n => otherFields 0x200 off n 0#32
  | .timerWrLoad n v => writeFields 0x240#10 n v
  | .timerWrReload n v => writeFields 0x244#10 n v
  | .timerWrEnStart n v => writeFields 0x248#10 n v
  | .timerWrEnStop n v => writeFields 0x248#10 n v
  | .timerWrUpdateValue n v => writeFields 0x24C#10 n v
  | .timerWrValue n v => writeFields 0x250#10 n v
  | .timerWrEvStatus n v => writeFields 0x254#10 n v
  | .timerWrEvPending n v => writeFields 0x258#10 n v
  | .timerWrEvEnable n v => writeFields 0x25C#10 n v
  | .timerWrOther off n v => otherFields 0x240 off n v
  | .timerInTick => bareFields 0x280#10
  | .timerInUnderflow => bareFields 0x281#10
  | .timerReset => bareFields 0x2C0#10
  | .intcRdMIrqEnable => bareFields 0x300#10
  | .intcRdMIrqPending => bareFields 0x301#10
  | .intcRdSIrqEnable => bareFields 0x302#10
  | .intcRdSIrqPending => bareFields 0x303#10
  | .intcWrMIrqEnable v => dataFields 0x340#10 v
  | .intcWrMIrqPending v => dataFields 0x341#10 v
  | .intcWrSIrqEnable v => dataFields 0x342#10 v
  | .intcWrSIrqPending v => dataFields 0x343#10 v
  | .intcInRequest line level => { dataFields 0x380#10 (BitVec.ofNat 32 line) with lvl := BitVec.ofBool level }
  | .intcReset => bareFields 0x3C0#10
  | .erbReadStatus dev => erbFields 0x000#10 dev 0#32
  | .erbReadPending dev => erbFields 0x001#10 dev 0#32
  | .erbReadEnable dev => erbFields 0x002#10 dev 0#32
  | .erbIrqLevel dev => erbFields 0x003#10 dev 0#32
  | .erbClearPending dev mask => erbFields 0x041#10 dev mask
  | .erbSetEnable dev newEnable => erbFields 0x042#10 dev newEnable
  | .erbSignalEvent dev bit => erbFields 0x080#10 dev (BitVec.ofNat 32 bit)
  | .erbClearStatus dev mask => erbFields 0x081#10 dev mask
  | .sysReset => bareFields 0x0C0#10

/-- The encoder: the word of a well-formed operation. -/
def encode (i : Instr) : OpWord := pack (encodeFields i)

/-! ## The table's words -/

/-- The operation word whose low `nbits` bits are those of `w` and whose other bits are zero. -/
def tableWord (nbits w : Nat) : OpWord := BitVec.ofNat 112 (w % 2 ^ nbits)

/-- The operation the decoder reads from a word of spec/opcode_table.json; `none` where it refuses. -/
def decodeTableWord (nbits w : Nat) : Option Instr :=
  if w % 2 ^ nbits < 2 ^ 112 then
    match decode (tableWord nbits w) with
    | .ok i => some i
    | .error _ => none
  else none

end Sys2Proof
end

