-- ==== Sys2Proof/Machine/State.lean ====
section
/-! DEFINITION. The machine's state as plain data: everything 10_state.md gives the four blocks, the environment-visible outputs of
its R26, and the model's own fields (`cfg`, `result`, `inbox`, `call`, `draws`; assumption logs 1, 2, 4, 5, 7). -/

namespace Sys2Proof.Machine

/-- The triplet of an EventRegisterBlock (10_state.md R12). -/
structure EventBlock where
  status : Word
  pending : Word
  enable : Word
deriving DecidableEq, Repr

/-- The UART (10_state.md R12, R16, R18). -/
structure Uart where
  block : EventBlock
  /-- The one-byte receive cell. -/
  rx : Byte
  /-- The level last driven on the interrupt output (R16). -/
  irqOut : Bool
deriving DecidableEq, Repr

/-- The timer and its countdown engine (10_state.md R12, R16, R20, R21, R27). -/
structure Timer where
  block : EventBlock
  load : Word
  reloadLimit : Word
  counter : Word
  value : Word
  enabled : Bool
  /-- The engine is counting (hidden, R21). -/
  running : Bool
  /-- The run stops at its first underflow (hidden, R21). -/
  oneShot : Bool
  /-- The tick rate in Hz (R27, last row); no rule reads it. -/
  tickRate : Nat
  /-- The level last driven on the interrupt output (R16). -/
  irqOut : Bool
deriving DecidableEq, Repr

/-- The interrupt controller (10_state.md R22, R23). -/
structure Intc where
  pendingBits : Word
  mEnableBits : Word
  sEnableBits : Word
  /-- The machine-external output. -/
  mOut : Bool
  /-- The supervisor-external output. -/
  sOut : Bool
deriving DecidableEq, Repr

/-- What an operation hands back to the agent that issued it (20_memory.md R41, 43 R172, R173, 41 R111): the model's own
field (assumption log 5). -/
inductive Result where
  /-- The operation returns nothing. -/
  | nothing
  /-- A register value; of a bus read, its low 8n bits. -/
  | word (v : Word)
  /-- A truth value: `can_accept_byte()`, `irq_level()`. -/
  | flag (b : Bool)
deriving DecidableEq, Repr

/-- What an agent of 00_scope.md R7 may issue: an operation named by its selector, or an access by address or by
pseudo-register number that the model dispatches to one (20_memory.md R41, R42; 10_state.md R24). -/
inductive Stimulus where
  /-- An operation word (30_encoding.md R62). -/
  | operation (w : OpWord)
  /-- `MemRead(addr, n)` (20_memory.md R41). -/
  | memRead (addr n : Nat)
  /-- `MemWrite(addr, n, v)` (20_memory.md R42). -/
  | memWrite (addr n : Nat) (v : Word)
  /-- An instruction fetch at a bus address (20_memory.md R53). -/
  | instrFetch (addr : Nat)
  /-- `PseudoRead(id)` (43_interrupt_controller.md R179). -/
  | pseudoRead (id : Nat)
  /-- `PseudoWrite(id, v)`. -/
  | pseudoWrite (id : Nat) (v : Word)
deriving DecidableEq, Repr

/-- The whole machine. -/
structure State where
  /-- The configuration, fixed at construction (00_scope.md R8); no step changes it. -/
  cfg : Config
  uart : Uart
  timer : Timer
  intc : Intc
  /-- `TXLOG`, the bytes handed to `send`, oldest first (10_state.md R26). -/
  txlog : List Byte
  /-- What the last operation returned (the model's own). -/
  result : Result
  /-- The stimuli the agents have issued, in the order in which they take effect (the model's own). -/
  inbox : List Stimulus
  /-- The word of an internal operation called outside any operation of its device (the model's own, assumption log 7): none at
  construction and after every step, so that no run performs one (30_encoding.md R60, R64). -/
  call : Option OpWord
  /-- How many values of `UART_RX_RESET` have been drawn (the model's own). -/
  draws : Nat
deriving DecidableEq, Repr

/-- The faults: none. No operation of the block raises an exception, a trap or a fault, and there are no cause codes
(60_exceptions.md R190), so the type has no constructor (assumption log 13). -/
inductive Fault where
deriving DecidableEq, Repr

/-- The reasons for which the model gives a step no meaning. -/
inductive Refusal where
  /-- Raised by exec for an operation that has no meaning yet. Safe. -/
  | notModelled (mnemonic : String)
  /-- Raised by a bus operation whose width is not 1, 2, 3 or 4: `refuse("access width outside 1..4")` (20_memory.md R45, D4,
  U7). Safe. -/
  | accessWidth
  /-- Raised by the step for an instruction fetch from a register window (20_memory.md R53, D4, U7). Safe. -/
  | instructionFetch
  /-- Raised by INTC.IN.request: `refuse("no such input line")` (43_interrupt_controller.md R170, D22, U8). Safe. -/
  | noSuchLine
  /-- Raised by a timer start or reload with count 0 (42_timer.md R134, R146, D18, U1). Safe. -/
  | timerCountZero
  /-- Raised by ERB.signal_event for a bit that is no event of the instance (40_event_register_block.md R86, operands). Safe. -/
  | undefinedEvent
  /-- Raised by the step for an operation word that names no operation (30_encoding.md R62, 93 section 2). Safe. -/
  | badOperation (e : DecodeError)
  /-- Raised by the step for an internal operation that an agent issues on its own (30_encoding.md R60 "not reachable on their own",
  R64 "performed inside a tick, never on its own"), and for a call that names no internal operation. Safe. -/
  | wrongCaller
  /-- Raised at construction for a configuration that is not legal (00_scope.md R8, U9). Safe. -/
  | illegalConfiguration
deriving DecidableEq, Repr

/-- The machine right after a system reset at construction, in configuration `c`: the baseline of 10_state.md R27. The
receive cell holds draw number 0 of `UART_RX_RESET`; `TXLOG` is empty (assumption logs 2, 14). -/
def State.initial (c : Config) : State where
  cfg := c
  uart := { block := { status := 0x1#32, pending := c.uartResetPending, enable := 0#32 },
            rx := Config.uartRxReset 0, irqOut := false }
  timer := { block := { status := 0#32, pending := 0#32, enable := 0#32 },
             load := 0#32, reloadLimit := 0#32, counter := 0#32, value := 0#32,
             enabled := false, running := false, oneShot := false, tickRate := c.wiring.timerFreqHz, irqOut := false }
  intc := { pendingBits := 0#32, mEnableBits := 0#32, sEnableBits := 0#32, mOut := false, sOut := false }
  txlog := []
  result := .nothing
  inbox := []
  call := none
  draws := 1

/-- The machine right after reset (70_reset_and_hazards.md R220: every run starts in the state after a system reset), in the
standard configuration. -/
def State.reset : State := State.initial Config.standard

end Sys2Proof.Machine
end

