-- ==== Sys2Proof/Machine/Flags.lean ====
section
/-! DEFINITION. The event flags (10_state.md R25): the eight operations of the status/pending/enable triplet
(40_event_register_block.md R80 to R87) as functions of one instance, and the flag registers derived from it. -/

namespace Sys2Proof.Machine

/-- UART transmit-complete, bit 0 (10_state.md R17). -/
def evTx : Word := 0x1#32

/-- UART receive-ready, bit 1 (10_state.md R17). -/
def evRx : Word := 0x2#32

/-- Timer counter reached zero, bit 0 (10_state.md R19). -/
def evZero : Word := 0x1#32

/-- The configuration record of a device's instance (10_state.md R15): the UART's mode is a parameter, and in mode A its
clear re-latches (41_uart.md R100, D29); the timer's is mode A without re-latch (42_timer.md R149, D11). -/
def blockConfig (c : Config) : Dev → BlockConfig
  | .uart => { evMask := Dev.evMask .uart, mode := c.uartMode, clearRelatch := true, relatch := c.enableRelatch }
  | .timer => { evMask := Dev.evMask .timer, mode := .A, clearRelatch := false, relatch := c.enableRelatch }

/-- `read_status()` (40 R80). -/
def EventBlock.readStatus (e : EventBlock) : Word := e.status

/-- `read_pending()` (40 R81). -/
def EventBlock.readPending (e : EventBlock) : Word := e.pending

/-- `read_enable()` (40 R82). -/
def EventBlock.readEnable (e : EventBlock) : Word := e.enable

/-- `irq_level()` (40 R83). -/
def EventBlock.irqLevel (c : BlockConfig) (e : EventBlock) : Bool :=
  match c.mode with
  | .B => e.pending != 0#32
  | .A => e.pending &&& e.enable != 0#32

/-- The bits a mode (b) enable write re-latches from status (40 R85, `cand`): `ne` is the new enable, `enable` the one before
the write. -/
def relatchCandidates (r : EnableRelatch) (ne enable : Word) : Word :=
  match r with
  | .newlyEnabled => ne &&& ~~~enable
  | .allEnabled => ne

/-- `set_enable(new_enable)`, the triplet's part (40 R85). -/
def EventBlock.setEnable (c : BlockConfig) (newEnable : Word) (e : EventBlock) : EventBlock :=
  let ne := newEnable &&& c.evMask
  match c.mode with
  | .A => { e with enable := ne }
  | .B => { e with pending := (e.pending ||| (relatchCandidates c.relatch ne e.enable &&& e.status)) &&& ne, enable := ne }

/-- `clear_pending(mask)`, the triplet's part (40 R84). -/
def EventBlock.clearPending (c : BlockConfig) (mask : Word) (e : EventBlock) : EventBlock :=
  match c.mode, c.clearRelatch with
  | .A, true =>
    let keep := mask &&& e.enable &&& e.status
    { e with pending := e.pending &&& ~~~(mask &&& ~~~keep) }
  | _, _ => { e with pending := e.pending &&& ~~~mask }

/-- `signal_event(bit)`, the triplet's part (40 R86). -/
def EventBlock.signalEvent (c : BlockConfig) (bit : Word) (e : EventBlock) : EventBlock :=
  match c.mode with
  | .B => { e with status := e.status ||| bit, pending := e.pending ||| (e.enable &&& bit) }
  | .A => { e with status := e.status ||| bit, pending := e.pending ||| bit }

/-- `clear_status(bit)` (40 R87). -/
def EventBlock.clearStatus (bit : Word) (e : EventBlock) : EventBlock := { e with status := e.status &&& ~~~bit }

/-- TXFULL (41_uart.md R103, D7). -/
def EventBlock.txFull (e : EventBlock) : Bool := e.status &&& evTx == 0#32

/-- TXEMPTY (41_uart.md R113, D7). -/
def EventBlock.txEmpty (e : EventBlock) : Bool := e.status &&& evTx != 0#32

/-- RXFULL (41_uart.md R114, D7). -/
def EventBlock.rxFull (e : EventBlock) : Bool := e.status &&& evRx != 0#32

/-- RXEMPTY follows the latched event, not the live condition (41_uart.md R104). -/
def EventBlock.rxEmpty (e : EventBlock) : Bool := e.pending &&& evRx == 0#32

/-- `can_accept_byte()` looks at status (41_uart.md R111). -/
def EventBlock.canAcceptByte (e : EventBlock) : Bool := e.status &&& evRx == 0#32

end Sys2Proof.Machine
end

