-- ==== Sys2Proof/Machine/Operands.lean ====
section
/-! DEFINITION. Operand and result assembly (30_encoding.md R67, R68; 20_memory.md R41 to R45), and the dispatch of an access by
address or by pseudo-register number to an operation. -/

namespace Sys2Proof.Machine

/-- `zext_32` of a byte (41_uart.md R102, D6). -/
def zextByte (b : Byte) : Word := b.setWidth 32

/-- A Boolean as a register value: 1 or 0 (00_scope.md section 5, 30_encoding.md R68). -/
def boolWord (b : Bool) : Word := if b then 1#32 else 0#32

/-- `r[8*n-1 : 0]`, the n least significant bytes of a value, zero-extended (20_memory.md R41, R42, D2). -/
def lowBytes (n : Nat) (r : Word) : Word := (r.setWidth (8 * n)).setWidth 32

/-- The byte an RXTX write sends: `v[7:0]` (41_uart.md R101, D6). -/
def sentByte (v : Word) : Byte := v.extractLsb' 0 8

/-- The mask of event bit number `bit` (40_event_register_block.md R86: exactly one bit set). -/
def eventMask (bit : Nat) : Word := 1#32 <<< bit

/-- Is `line` below `NUM_LINES` (43_interrupt_controller.md R170)? -/
def hasLine (w : Wiring) (line : Nat) : Bool := w.numLines - line != 0

/-- The window that holds bus address `addr`, and the byte offset in it (20_memory.md R41). -/
def locate (w : Wiring) (addr : Nat) : Option (Dev × Nat) :=
  if w.uartBase ≤ addr ∧ addr < w.uartBase + w.windowSize then some (.uart, addr - w.uartBase)
  else if w.timerBase ≤ addr ∧ addr < w.timerBase + w.windowSize then some (.timer, addr - w.timerBase)
  else none

/-- `RegRead(DEV, off)` as an operation (20_memory.md R41). -/
def regReadAt : Dev → Nat → Nat → Instr
  | .uart => uartReadAt
  | .timer => timerReadAt

/-- `RegWrite(DEV, off, v)` as an operation (20_memory.md R42). -/
def regWriteAt : Dev → Nat → Nat → Word → Instr
  | .uart => uartWriteAt
  | .timer => timerWriteAt

/-- The pseudo-register of a CPU control-register number (10_state.md R24, D21). -/
def pseudoOf (w : Wiring) (id : Nat) : Option PseudoReg :=
  if id = w.mIrqEnableId then some .mIrqEnable
  else if id = w.mIrqPendingId then some .mIrqPending
  else if id = w.sIrqEnableId then some .sIrqEnable
  else if id = w.sIrqPendingId then some .sIrqPending
  else none

/-- The read of a pseudo-register (30_encoding.md R65). -/
def pseudoReadOf : PseudoReg → Instr
  | .mIrqEnable => .intcRdMIrqEnable
  | .mIrqPending => .intcRdMIrqPending
  | .sIrqEnable => .intcRdSIrqEnable
  | .sIrqPending => .intcRdSIrqPending

/-- The write of a pseudo-register (30_encoding.md R65). -/
def pseudoWriteOf (v : Word) : PseudoReg → Instr
  | .mIrqEnable => .intcWrMIrqEnable v
  | .mIrqPending => .intcWrMIrqPending v
  | .sIrqEnable => .intcWrSIrqEnable v
  | .sIrqPending => .intcWrSIrqPending v

/-- The operations that no agent issues on its own: those of the triplet, which their device performs (30_encoding.md R60), and
the underflow, which a tick performs (R64; 42_timer.md R146). -/
def internal : Instr → Bool
  | .timerInUnderflow => true
  | .erbReadStatus _ => true
  | .erbReadPending _ => true
  | .erbReadEnable _ => true
  | .erbIrqLevel _ => true
  | .erbClearPending _ _ => true
  | .erbSetEnable _ _ => true
  | .erbSignalEvent _ _ => true
  | .erbClearStatus _ _ => true
  | _ => false

/-- Does the word name an internal operation? -/
def namesInternal (x : OpWord) : Bool :=
  match decode x with
  | .ok i => internal i
  | .error _ => false

/-- What a stimulus asks of the block. -/
inductive Request where
  /-- An operation of the block. -/
  | op (i : Instr)
  /-- Not an access to the block (20_memory.md R41: "the bus's business"). -/
  | elsewhere
  /-- A situation to which the spec gives no meaning. -/
  | refuse (r : Refusal)
deriving DecidableEq, Repr

/-- The request a stimulus makes (20_memory.md R41, R42, R53; 10_state.md R24). The n-byte value of a write is the low n bytes of
the value given. An internal operation is none that an agent may request (30_encoding.md R60, R64). -/
def requestOf (w : Wiring) : Stimulus → Request
  | .operation x =>
    match decode x with
    | .ok i => if internal i then .refuse .wrongCaller else .op i
    | .error e => .refuse (.badOperation e)
  | .memRead addr n =>
    match locate w addr with
    | some (dev, off) => .op (regReadAt dev off n)
    | none => .elsewhere
  | .memWrite addr n v =>
    match locate w addr with
    | some (dev, off) => .op (regWriteAt dev off n (lowBytes n v))
    | none => .elsewhere
  | .instrFetch addr =>
    match locate w addr with
    | some _ => .refuse .instructionFetch
    | none => .elsewhere
  | .pseudoRead id =>
    match pseudoOf w id with
    | some p => .op (pseudoReadOf p)
    | none => .elsewhere
  | .pseudoWrite id v =>
    match pseudoOf w id with
    | some p => .op (pseudoWriteOf v p)
    | none => .elsewhere

/-- The request a call makes: an internal operation, and no other (assumption log 7). -/
def callOf (x : OpWord) : Request :=
  match decode x with
  | .ok i => if internal i then .op i else .refuse .wrongCaller
  | .error e => .refuse (.badOperation e)

end Sys2Proof.Machine
end

