-- ==== Sys2Proof/Machine/Ops.lean ====
section
/-! DEFINITION. The named operations over the machine's state that the meanings share: field updates, bus access, the interrupt
path (60_exceptions.md R192, 43_interrupt_controller.md R175), the triplet operations of a device, `send`, the countdown engine
and the resets. The block takes no exception and returns from none (60_exceptions.md R190, R195): the interrupt path
to `m_out` and `s_out` is all it contributes to one. -/

namespace Sys2Proof.Machine

/-- The outcome of a step. -/
abbrev Outcome := Host.Outcome State Fault Refusal

/-! ## Field updates -/

/-- Replace the UART. -/
def State.setUart (u : Uart) (s : State) : State := { s with uart := u }

/-- Replace the timer. -/
def State.setTimer (t : Timer) (s : State) : State := { s with timer := t }

/-- Replace the controller. -/
def State.setIntc (c : Intc) (s : State) : State := { s with intc := c }

/-- What the operation returns. -/
def State.setResult (r : Result) (s : State) : State := { s with result := r }

/-- `send(b)` (41_uart.md R101, D27): append to `TXLOG`. -/
def State.send (b : Byte) (s : State) : State := { s with txlog := s.txlog ++ [b] }

/-- A value of `UART_RX_RESET` has been drawn. -/
def State.countDraw (s : State) : State := { s with draws := s.draws + 1 }

/-- The triplet of a device. -/
def State.block (s : State) : Dev → EventBlock
  | .uart => s.uart.block
  | .timer => s.timer.block

/-- Replace the triplet of a device. -/
def State.setBlock (d : Dev) (e : EventBlock) (s : State) : State :=
  match d with
  | .uart => s.setUart { s.uart with block := e }
  | .timer => s.setTimer { s.timer with block := e }

/-- The configuration record of a device's instance. -/
def State.blockCfg (s : State) (d : Dev) : BlockConfig := blockConfig s.cfg d

/-! ## Outcomes -/

/-- The operation completes and returns `r`. -/
def complete (r : Result) (s : State) : Outcome := .next (s.setResult r)

/-- A bus read of `n` bytes that leaves the state `s` and whose register value is `r`; a width outside 1..4 is refused
(20_memory.md R41, R45). -/
def busRead (n : Nat) (r : Word) (s : State) : Outcome :=
  if widthOk n then complete (.word (lowBytes n r)) s else .refused .accessWidth

/-- A bus write of `n` bytes that leaves the state `s` (20_memory.md R42, R45). -/
def busWrite (n : Nat) (s : State) : Outcome :=
  if widthOk n then complete .nothing s else .refused .accessWidth

/-! ## The interrupt path -/

/-- `recompute()` (43_interrupt_controller.md R175). -/
def Intc.recompute (c : Intc) : Intc :=
  { c with mOut := c.pendingBits &&& c.mEnableBits != 0#32, sOut := c.pendingBits &&& c.sEnableBits != 0#32 }

/-- `request(line, level)` on a line that exists (43_interrupt_controller.md R170). -/
def Intc.setLine (line : Nat) (level : Bool) (c : Intc) : Intc :=
  Intc.recompute
    { c with pendingBits :=
        if level then c.pendingBits ||| (1#32 <<< line) else c.pendingBits &&& ~~~(1#32 <<< line) }

/-- The controller input a device drives (43_interrupt_controller.md R178, D23). -/
def irqLine (w : Wiring) : Dev → Nat
  | .uart => w.uartIrqLine
  | .timer => w.timerIrqLine

/-- `irq_level(DEV)` (40_event_register_block.md R83). -/
def State.irqLevel (s : State) (d : Dev) : Bool := (s.block d).irqLevel (s.blockCfg d)

/-- `DEV.irq_out <- level`. -/
def State.setIrqOut (d : Dev) (level : Bool) (s : State) : State :=
  match d with
  | .uart => s.setUart { s.uart with irqOut := level }
  | .timer => s.setTimer { s.timer with irqOut := level }

/-- `drive_irq(DEV)` (60_exceptions.md R192): drive the output line with the level and deliver it to the controller input it
is wired to, which a legal configuration has (assumption log 8). -/
def driveIrq (d : Dev) (s : State) : State :=
  (s.setIrqOut d (s.irqLevel d)).setIntc (s.intc.setLine (irqLine s.cfg.wiring d) (s.irqLevel d))

/-! ## The triplet operations of a device -/

/-- `set_enable(DEV, v)` (40_event_register_block.md R85). -/
def setEnable (d : Dev) (v : Word) (s : State) : State :=
  driveIrq d (s.setBlock d ((s.block d).setEnable (s.blockCfg d) v))

/-- `clear_pending(DEV, mask)` (40_event_register_block.md R84). -/
def clearPending (d : Dev) (mask : Word) (s : State) : State :=
  driveIrq d (s.setBlock d ((s.block d).clearPending (s.blockCfg d) mask))

/-- `signal_event(DEV, bit)` (40_event_register_block.md R86). -/
def signalEvent (d : Dev) (bit : Word) (s : State) : State :=
  driveIrq d (s.setBlock d ((s.block d).signalEvent (s.blockCfg d) bit))

/-- `clear_status(DEV, bit)` (40_event_register_block.md R87). The level does not change, and the line is driven with it all the
same, as after every mutating operation of a peripheral (60_exceptions.md R192, D31; assumption log 25). -/
def clearStatus (d : Dev) (bit : Word) (s : State) : State :=
  driveIrq d (s.setBlock d ((s.block d).clearStatus bit))

/-! ## The countdown engine -/

/-- A mutating operation of the timer that leaves its registers as `t`: at its end the line is driven, changed or not
(60_exceptions.md R192, D31). -/
def updateTimer (t : Timer) (s : State) : State := driveIrq .timer (s.setTimer t)

/-- The start of the engine (42_timer.md R134): a one-shot value is staged when `load` is not 0 (D13); count 0 is refused (D18,
U1). -/
def startTimer (s : State) : Except Refusal State :=
  let t := s.timer
  let count := if t.load ≠ 0#32 then t.load else t.reloadLimit
  if count = 0#32 then .error .timerCountZero
  else .ok (updateTimer { t with enabled := true, oneShot := decide (t.load ≠ 0#32), counter := count, running := true } s)

/-- The stop of the engine (42_timer.md R135). -/
def stopTimer (s : State) : State := updateTimer { s.timer with running := false, enabled := false } s

/-- `underflow()` (42_timer.md R146): the ZERO event, which drives the line, then the end of a one-shot run or the reload of a repeating one; a reload
with period 0 is refused (D18, U1). -/
def underflow (s : State) : Except Refusal State :=
  let s := signalEvent .timer evZero s
  let t := s.timer
  if t.oneShot then .ok (s.setTimer { t with running := false })
  else if t.reloadLimit = 0#32 then .error .timerCountZero
  else .ok (s.setTimer { t with counter := t.reloadLimit })

/-- `tick` (42_timer.md R145). A tick while the engine is stopped "changes nothing", so it is no mutating operation; every other
drives the line (60_exceptions.md R192, D31), one that underflows in its ZERO event. -/
def tick (s : State) : Except Refusal State :=
  if s.timer.running then
    let t := { s.timer with counter := s.timer.counter - 1#32 }
    if t.counter = 0#32 then underflow (s.setTimer t) else .ok (updateTimer t s)
  else .ok s

/-- The outcome of an operation that the spec may refuse. -/
def completeOr (x : Except Refusal State) : Outcome :=
  match x with
  | .ok s => complete .nothing s
  | .error r => .refused r

/-! ## Resets -/

/-- The reset of the UART (70_reset_and_hazards.md R221); the receive cell takes a new draw of `UART_RX_RESET` (D9, U6). -/
def resetUart (s : State) : State :=
  driveIrq .uart
    ((s.setUart { s.uart with
        block := { status := evTx, pending := s.cfg.uartResetPending, enable := 0#32 },
        rx := Config.uartRxReset s.draws }).countDraw)

/-- The reset of the timer (70_reset_and_hazards.md R222). -/
def resetTimer (s : State) : State :=
  driveIrq .timer
    (s.setTimer { s.timer with
        running := false, enabled := false, oneShot := false, counter := 0#32, reloadLimit := 0#32,
        block := { status := 0#32, pending := 0#32, enable := 0#32 }, value := 0#32, load := 0#32,
        tickRate := s.cfg.wiring.timerFreqHz })

/-- The reset of the controller (70_reset_and_hazards.md R223): the input lines are not sampled. -/
def resetIntc (s : State) : State :=
  s.setIntc (Intc.recompute { s.intc with pendingBits := 0#32, mEnableBits := 0#32, sEnableBits := 0#32 })

/-- Construction (00_scope.md R8; 70_reset_and_hazards.md R220, R225): an illegal configuration is refused; a legal one starts
in the state after a system reset. -/
def construct (c : Config) : Outcome := if c.legal then .next (State.initial c) else .refused .illegalConfiguration

end Sys2Proof.Machine
end

