-- ==== Sys2Proof/Machine/Erb.lean ====
section
/-! DEFINITION. The meanings of the EventRegisterBlock's eight operations on the UART's or the timer's instance
(40_event_register_block.md). They are internal (30_encoding.md R60): the device rules call the shared operations these are one
line over (assumption log 7). -/

namespace Sys2Proof.Machine

/-- `read_status()` (40 R80). -/
def execErbReadStatus (d : Dev) (s : State) : Outcome := complete (.word (s.block d).readStatus) s

/-- `read_pending()` (40 R81). -/
def execErbReadPending (d : Dev) (s : State) : Outcome := complete (.word (s.block d).readPending) s

/-- `read_enable()` (40 R82). -/
def execErbReadEnable (d : Dev) (s : State) : Outcome := complete (.word (s.block d).readEnable) s

/-- `irq_level()` (40 R83). -/
def execErbIrqLevel (d : Dev) (s : State) : Outcome := complete (.flag (s.irqLevel d)) s

/-- `clear_pending(mask)` (40 R84). -/
def execErbClearPending (d : Dev) (mask : Word) (s : State) : Outcome := complete .nothing (clearPending d mask s)

/-- `set_enable(new_enable)` (40 R85). -/
def execErbSetEnable (d : Dev) (newEnable : Word) (s : State) : Outcome := complete .nothing (setEnable d newEnable s)

/-- `signal_event(bit)` (40 R86): `bit` is the number of a defined event bit of the instance; another is no operand of the
operation (R86 "inside `EV_MASK`", 10_state.md R13). -/
def execErbSignalEvent (d : Dev) (bit : Nat) (s : State) : Outcome :=
  if bit < d.eventCount then complete .nothing (signalEvent d (eventMask bit) s) else .refused .undefinedEvent

/-- `clear_status(bit)` (40 R87). -/
def execErbClearStatus (d : Dev) (mask : Word) (s : State) : Outcome := complete .nothing (clearStatus d mask s)

end Sys2Proof.Machine
end

