-- ==== Sys2Proof/Machine/Intc.lean ====
section
/-! DEFINITION. The meanings of the interrupt controller's operations (43_interrupt_controller.md). The block checks no privilege
(R179). -/

namespace Sys2Proof.Machine

/-- M_IRQ_ENABLE read (43 R173, role machine). -/
def execIntcRdMIrqEnable (s : State) : Outcome := complete (.word s.intc.mEnableBits) s

/-- M_IRQ_PENDING read (43 R172): unmasked. -/
def execIntcRdMIrqPending (s : State) : Outcome := complete (.word s.intc.pendingBits) s

/-- S_IRQ_ENABLE read (43 R173, role supervisor). -/
def execIntcRdSIrqEnable (s : State) : Outcome := complete (.word s.intc.sEnableBits) s

/-- S_IRQ_PENDING read (43 R172): unmasked. -/
def execIntcRdSIrqPending (s : State) : Outcome := complete (.word s.intc.pendingBits) s

/-- M_IRQ_ENABLE write (43 R171, role machine): replaces the whole mask. -/
def execIntcWrMIrqEnable (v : Word) (s : State) : Outcome :=
  complete .nothing (s.setIntc (Intc.recompute { s.intc with mEnableBits := v }))

/-- M_IRQ_PENDING write (43 R174): nothing. -/
def execIntcWrMIrqPending (_v : Word) (s : State) : Outcome := complete .nothing s

/-- S_IRQ_ENABLE write (43 R171, role supervisor): replaces the whole mask. -/
def execIntcWrSIrqEnable (v : Word) (s : State) : Outcome :=
  complete .nothing (s.setIntc (Intc.recompute { s.intc with sEnableBits := v }))

/-- S_IRQ_PENDING write (43 R174): nothing. -/
def execIntcWrSIrqPending (_v : Word) (s : State) : Outcome := complete .nothing s

/-- `request(line_index, level)` (43 R170): a line at or above NUM_LINES is refused (D22, U8). -/
def execIntcInRequest (line : Nat) (level : Bool) (s : State) : Outcome :=
  if hasLine s.cfg.wiring line then complete .nothing (s.setIntc (s.intc.setLine line level))
  else .refused .noSuchLine

/-- Controller reset (70 R223). -/
def execIntcReset (s : State) : Outcome := complete .nothing (resetIntc s)

end Sys2Proof.Machine
end

