-- ==== Sys2Proof/Machine/Sys.lean ====
section
/-! DEFINITION. The system reset (70_reset_and_hazards.md R224). -/

namespace Sys2Proof.Machine

/-- SYS.RESET (70 R224): the three resets in one step; lines of other peripherals are low after it (D26). -/
def execSysReset (s : State) : Outcome := complete .nothing (resetIntc (resetTimer (resetUart s)))

end Sys2Proof.Machine
end

