-- ==== Sys2Proof/Machine/Timer.lean ====
section
/-! DEFINITION. The meanings of the timer's operations (42_timer.md). -/

namespace Sys2Proof.Machine

/-! ## Reads -/

/-- LOAD read (42 R131). -/
def execTimerRdLoad (n : Nat) (s : State) : Outcome := busRead n s.timer.load s

/-- RELOAD read (42 R133). -/
def execTimerRdReload (n : Nat) (s : State) : Outcome := busRead n s.timer.reloadLimit s

/-- EN read (42 R136): what the last EN write set. -/
def execTimerRdEn (n : Nat) (s : State) : Outcome := busRead n (boolWord s.timer.enabled) s

/-- UPDATE_VALUE read (42 R138): zero, no latch. -/
def execTimerRdUpdateValue (n : Nat) (s : State) : Outcome := busRead n 0#32 s

/-- VALUE read (42 R139): the last snapshot. -/
def execTimerRdValue (n : Nat) (s : State) : Outcome := busRead n s.timer.value s

/-- EV_STATUS read (42 R140). -/
def execTimerRdEvStatus (n : Nat) (s : State) : Outcome := busRead n s.timer.block.readStatus s

/-- EV_PENDING read (42 R141). -/
def execTimerRdEvPending (n : Nat) (s : State) : Outcome := busRead n s.timer.block.readPending s

/-- EV_ENABLE read (42 R147). -/
def execTimerRdEvEnable (n : Nat) (s : State) : Outcome := busRead n s.timer.block.readEnable s

/-- Read at any other offset (42 R148; 20 R44): zero. -/
def execTimerRdOther (_off n : Nat) (s : State) : Outcome := busRead n 0#32 s

/-! ## Writes -/

/-- LOAD write (42 R130): stages the value; the line is driven (60 R192). -/
def execTimerWrLoad (n : Nat) (v : Word) (s : State) : Outcome :=
  busWrite n (updateTimer { s.timer with load := lowBytes n v } s)

/-- RELOAD write (42 R132); the line is driven (60 R192). -/
def execTimerWrReload (n : Nat) (v : Word) (s : State) : Outcome :=
  busWrite n (updateTimer { s.timer with reloadLimit := lowBytes n v } s)

/-- EN write with bit 0 set (42 R134): start. -/
def execTimerWrEnStart (n : Nat) (_v : Word) (s : State) : Outcome :=
  if widthOk n then completeOr (startTimer s) else .refused .accessWidth

/-- EN write with bit 0 clear (42 R135): stop. -/
def execTimerWrEnStop (n : Nat) (_v : Word) (s : State) : Outcome := busWrite n (stopTimer s)

/-- UPDATE_VALUE write (42 R137): latches the live count; the data is ignored (D28); the line is driven (60 R192). -/
def execTimerWrUpdateValue (n : Nat) (_v : Word) (s : State) : Outcome :=
  busWrite n (updateTimer { s.timer with value := s.timer.counter } s)

/-- VALUE write (42 R144): nothing. -/
def execTimerWrValue (n : Nat) (_v : Word) (s : State) : Outcome := busWrite n s

/-- EV_STATUS write (42 R144): nothing. -/
def execTimerWrEvStatus (n : Nat) (_v : Word) (s : State) : Outcome := busWrite n s

/-- EV_PENDING write (42 R142): clears exactly the written bits. -/
def execTimerWrEvPending (n : Nat) (v : Word) (s : State) : Outcome := busWrite n (clearPending .timer (lowBytes n v) s)

/-- EV_ENABLE write (42 R143). -/
def execTimerWrEvEnable (n : Nat) (v : Word) (s : State) : Outcome := busWrite n (setEnable .timer (lowBytes n v) s)

/-- Write at any other offset (42 R148; 20 R44): nothing. -/
def execTimerWrOther (_off n : Nat) (_v : Word) (s : State) : Outcome := busWrite n s

/-! ## Inputs and reset -/

/-- `tick` (42 R145). -/
def execTimerInTick (s : State) : Outcome := completeOr (tick s)

/-- `underflow()` (42 R146), which a tick performs; no agent issues it on its own (30 R64; assumption log 7). -/
def execTimerInUnderflow (s : State) : Outcome := completeOr (underflow s)

/-- Timer reset (70 R222). -/
def execTimerReset (s : State) : Outcome := complete .nothing (resetTimer s)

end Sys2Proof.Machine
end

