-- ==== Sys2Proof/Machine/Uart.lean ====
section
/-! DEFINITION. The meanings of the UART's operations (41_uart.md). -/

namespace Sys2Proof.Machine

/-! ## Reads -/

/-- RXTX read (41 R102): clears RX status, keeps RX pending, returns the held byte; the line is driven (60 R192).
DESIGN CHOICE (assumption log 25): also when RX status is already 0 and the read changes nothing. -/
def execUartRdRxtx (n : Nat) (s : State) : Outcome := busRead n (zextByte s.uart.rx) (clearStatus .uart evRx s)

/-- TXFULL read (41 R103). -/
def execUartRdTxfull (n : Nat) (s : State) : Outcome := busRead n (boolWord s.uart.block.txFull) s

/-- RXEMPTY read (41 R104). -/
def execUartRdRxempty (n : Nat) (s : State) : Outcome := busRead n (boolWord s.uart.block.rxEmpty) s

/-- EV_STATUS read (41 R105). -/
def execUartRdEvStatus (n : Nat) (s : State) : Outcome := busRead n s.uart.block.readStatus s

/-- EV_PENDING read (41 R106). -/
def execUartRdEvPending (n : Nat) (s : State) : Outcome := busRead n s.uart.block.readPending s

/-- EV_ENABLE read (41 R112). -/
def execUartRdEvEnable (n : Nat) (s : State) : Outcome := busRead n s.uart.block.readEnable s

/-- TXEMPTY read (41 R113). -/
def execUartRdTxempty (n : Nat) (s : State) : Outcome := busRead n (boolWord s.uart.block.txEmpty) s

/-- RXFULL read (41 R114). -/
def execUartRdRxfull (n : Nat) (s : State) : Outcome := busRead n (boolWord s.uart.block.rxFull) s

/-- Read at any other offset (41 R115; 20 R44): zero. -/
def execUartRdOther (_off n : Nat) (s : State) : Outcome := busRead n 0#32 s

/-! ## Writes -/

/-- RXTX write (41 R101): sends the low byte and signals TX. -/
def execUartWrRxtx (n : Nat) (v : Word) (s : State) : Outcome :=
  busWrite n (signalEvent .uart evTx (s.send (sentByte (lowBytes n v))))

/-- TXFULL write (41 R109): nothing. -/
def execUartWrTxfull (n : Nat) (_v : Word) (s : State) : Outcome := busWrite n s

/-- RXEMPTY write (41 R109): nothing. -/
def execUartWrRxempty (n : Nat) (_v : Word) (s : State) : Outcome := busWrite n s

/-- EV_STATUS write (41 R109): nothing. -/
def execUartWrEvStatus (n : Nat) (_v : Word) (s : State) : Outcome := busWrite n s

/-- EV_PENDING write (41 R107): the value is the clear mask. -/
def execUartWrEvPending (n : Nat) (v : Word) (s : State) : Outcome := busWrite n (clearPending .uart (lowBytes n v) s)

/-- EV_ENABLE write (41 R108). -/
def execUartWrEvEnable (n : Nat) (v : Word) (s : State) : Outcome := busWrite n (setEnable .uart (lowBytes n v) s)

/-- TXEMPTY write (41 R109): nothing. -/
def execUartWrTxempty (n : Nat) (_v : Word) (s : State) : Outcome := busWrite n s

/-- RXFULL write (41 R109): nothing. -/
def execUartWrRxfull (n : Nat) (_v : Word) (s : State) : Outcome := busWrite n s

/-- Write at any other offset (41 R115; 20 R44): nothing. -/
def execUartWrOther (_off n : Nat) (_v : Word) (s : State) : Outcome := busWrite n s

/-! ## Inputs and reset -/

/-- `on_byte_received(byte)` (41 R110): overwrites the receive cell and signals RX. -/
def execUartInByteReceived (b : Byte) (s : State) : Outcome :=
  complete .nothing (signalEvent .uart evRx (s.setUart { s.uart with rx := b }))

/-- `can_accept_byte()` (41 R111). -/
def execUartInCanAcceptByte (s : State) : Outcome := complete (.flag s.uart.block.canAcceptByte) s

/-- UART reset (70 R221). -/
def execUartReset (s : State) : Outcome := complete .nothing (resetUart s)

end Sys2Proof.Machine
end

