-- ==== Sys2Proof/Machine/Dispatch.lean ====
section
/-! DEFINITION. The dispatch: one arm per operation, each one direct call of its meaning. -/

namespace Sys2Proof.Machine

def exec (i : Instr) (s : State) : Host.Outcome State Fault Refusal :=
  match i with
  | .uartRdRxtx n => Sys2Proof.Machine.execUartRdRxtx n s
  | .uartRdTxfull n => Sys2Proof.Machine.execUartRdTxfull n s
  | .uartRdRxempty n => Sys2Proof.Machine.execUartRdRxempty n s
  | .uartRdEvStatus n => Sys2Proof.Machine.execUartRdEvStatus n s
  | .uartRdEvPending n => Sys2Proof.Machine.execUartRdEvPending n s
  | .uartRdEvEnable n => Sys2Proof.Machine.execUartRdEvEnable n s
  | .uartRdTxempty n => Sys2Proof.Machine.execUartRdTxempty n s
  | .uartRdRxfull n => Sys2Proof.Machine.execUartRdRxfull n s
  | .uartRdOther off n => Sys2Proof.Machine.execUartRdOther off n s
  | .uartWrRxtx n v => Sys2Proof.Machine.execUartWrRxtx n v s
  | .uartWrTxfull n v => Sys2Proof.Machine.execUartWrTxfull n v s
  | .uartWrRxempty n v => Sys2Proof.Machine.execUartWrRxempty n v s
  | .uartWrEvStatus n v => Sys2Proof.Machine.execUartWrEvStatus n v s
  | .uartWrEvPending n v => Sys2Proof.Machine.execUartWrEvPending n v s
  | .uartWrEvEnable n v => Sys2Proof.Machine.execUartWrEvEnable n v s
  | .uartWrTxempty n v => Sys2Proof.Machine.execUartWrTxempty n v s
  | .uartWrRxfull n v => Sys2Proof.Machine.execUartWrRxfull n v s
  | .uartWrOther off n v => Sys2Proof.Machine.execUartWrOther off n v s
  | .uartInByteReceived b => Sys2Proof.Machine.execUartInByteReceived b s
  | .uartInCanAcceptByte => Sys2Proof.Machine.execUartInCanAcceptByte s
  | .uartReset => Sys2Proof.Machine.execUartReset s
  | .timerRdLoad n => Sys2Proof.Machine.execTimerRdLoad n s
  | .timerRdReload n => Sys2Proof.Machine.execTimerRdReload n s
  | .timerRdEn n => Sys2Proof.Machine.execTimerRdEn n s
  | .timerRdUpdateValue n => Sys2Proof.Machine.execTimerRdUpdateValue n s
  | .timerRdValue n => Sys2Proof.Machine.execTimerRdValue n s
  | .timerRdEvStatus n => Sys2Proof.Machine.execTimerRdEvStatus n s
  | .timerRdEvPending n => Sys2Proof.Machine.execTimerRdEvPending n s
  | .timerRdEvEnable n => Sys2Proof.Machine.execTimerRdEvEnable n s
  | .timerRdOther off n => Sys2Proof.Machine.execTimerRdOther off n s
  | .timerWrLoad n v => Sys2Proof.Machine.execTimerWrLoad n v s
  | .timerWrReload n v => Sys2Proof.Machine.execTimerWrReload n v s
  | .timerWrEnStart n v => Sys2Proof.Machine.execTimerWrEnStart n v s
  | .timerWrEnStop n v => Sys2Proof.Machine.execTimerWrEnStop n v s
  | .timerWrUpdateValue n v => Sys2Proof.Machine.execTimerWrUpdateValue n v s
  | .timerWrValue n v => Sys2Proof.Machine.execTimerWrValue n v s
  | .timerWrEvStatus n v => Sys2Proof.Machine.execTimerWrEvStatus n v s
  | .timerWrEvPending n v => Sys2Proof.Machine.execTimerWrEvPending n v s
  | .timerWrEvEnable n v => Sys2Proof.Machine.execTimerWrEvEnable n v s
  | .timerWrOther off n v => Sys2Proof.Machine.execTimerWrOther off n v s
  | .timerInTick => Sys2Proof.Machine.execTimerInTick s
  | .timerInUnderflow => Sys2Proof.Machine.execTimerInUnderflow s
  | .timerReset => Sys2Proof.Machine.execTimerReset s
  | .intcRdMIrqEnable => Sys2Proof.Machine.execIntcRdMIrqEnable s
  | .intcRdMIrqPending => Sys2Proof.Machine.execIntcRdMIrqPending s
  | .intcRdSIrqEnable => Sys2Proof.Machine.execIntcRdSIrqEnable s
  | .intcRdSIrqPending => Sys2Proof.Machine.execIntcRdSIrqPending s
  | .intcWrMIrqEnable v => Sys2Proof.Machine.execIntcWrMIrqEnable v s
  | .intcWrMIrqPending v => Sys2Proof.Machine.execIntcWrMIrqPending v s
  | .intcWrSIrqEnable v => Sys2Proof.Machine.execIntcWrSIrqEnable v s
  | .intcWrSIrqPending v => Sys2Proof.Machine.execIntcWrSIrqPending v s
  | .intcInRequest line level => Sys2Proof.Machine.execIntcInRequest line level s
  | .intcReset => Sys2Proof.Machine.execIntcReset s
  | .erbReadStatus dev => Sys2Proof.Machine.execErbReadStatus dev s
  | .erbReadPending dev => Sys2Proof.Machine.execErbReadPending dev s
  | .erbReadEnable dev => Sys2Proof.Machine.execErbReadEnable dev s
  | .erbIrqLevel dev => Sys2Proof.Machine.execErbIrqLevel dev s
  | .erbClearPending dev mask => Sys2Proof.Machine.execErbClearPending dev mask s
  | .erbSetEnable dev newEnable => Sys2Proof.Machine.execErbSetEnable dev newEnable s
  | .erbSignalEvent dev bit => Sys2Proof.Machine.execErbSignalEvent dev bit s
  | .erbClearStatus dev mask => Sys2Proof.Machine.execErbClearStatus dev mask s
  | .sysReset => Sys2Proof.Machine.execSysReset s

end Sys2Proof.Machine
end

