-- ==== Sys2Proof/Machine/Step.lean ====
section
/-! DEFINITION. One step: the first stimulus in the inbox takes effect. With an empty inbox nothing happens (30_encoding.md R60:
no other stimulus changes the state); a stimulus that is not an access to the block leaves it as it is (assumption logs 4, 6). An
internal operation is no stimulus (R60, R64): it runs inside the operation that performs it, or as a call placed in `call` from
outside a run (assumption log 7). -/

namespace Sys2Proof.Machine

/-- The state after the first stimulus has been taken from the inbox. -/
def State.setInbox (rest : List Stimulus) (s : State) : State := { s with inbox := rest }

/-- The state with the call `c` pending, or with none. -/
def State.setCall (c : Option OpWord) (s : State) : State := { s with call := c }

/-- Carry out a request. -/
def serve (r : Request) (s : State) : Host.Outcome State Fault Refusal :=
  match r with
  | .op i => exec i s
  | .elsewhere => complete .nothing s
  | .refuse e => .refused e

/-- One atomic step of the machine (20_memory.md R48, R49). No step leaves a call pending. -/
def step (s : State) : Host.Outcome State Fault Refusal :=
  match s.call with
  | some x => serve (callOf x) (s.setCall none)
  | none =>
    match s.inbox with
    | [] => .next s
    | x :: rest => serve (requestOf s.cfg.wiring x) (s.setInbox rest)

/-- `s` with the operation word `w` as what the next step runs: the next stimulus, or, of an internal operation, the pending
call (assumption log 7). -/
def State.withFetchWord (s : State) (nbits w : Nat) : State :=
  if namesInternal (tableWord nbits w) then s.setCall (some (tableWord nbits w))
  else (s.setInbox (.operation (tableWord nbits w) :: s.inbox)).setCall none

end Sys2Proof.Machine
end

