-- ==== Sys2Proof/Safety.lean ====
section
/-! DEFINITION. What counts as a lawful state and a lawful environment, in the terms the claims use: the invariants of 10_state.md R13,
R14, R16, R23, 41 R116, 42 R151 and 43 R177, each written from its rule and not from the operations that keep it; the liberties of
the environment (00_scope.md R7, 60_exceptions.md R205); and which operations may change which device. -/

namespace Sys2Proof.Machine

/-! ## Lawful states -/

/-- The three fields have no bit outside the mask (10_state.md R13). -/
abbrev EventBlock.Inside (mask : Word) (e : EventBlock) : Prop :=
  e.status &&& ~~~mask = 0#32 ∧ e.pending &&& ~~~mask = 0#32 ∧ e.enable &&& ~~~mask = 0#32

/-- 10_state.md R13, of both instances. -/
abbrev State.TripletsInside (s : State) : Prop :=
  s.uart.block.Inside 0x3#32 ∧ s.timer.block.Inside 0x1#32

/-- 10_state.md R14: in mode (b) `pending & ~enable == 0`. -/
abbrev State.PendingFolded (s : State) : Prop :=
  s.cfg.uartMode = .B → s.uart.block.pending &&& ~~~s.uart.block.enable = 0#32

/-- The level of an instance by the law of 40_event_register_block.md R89. -/
def lineLevel (m : Mode) (e : EventBlock) : Bool :=
  if m = .A then decide (e.pending &&& e.enable ≠ 0#32) else decide (e.pending ≠ 0#32)

/-- 10_state.md R16: each line carries its instance's level. -/
abbrev State.LinesFollowLevels (s : State) : Prop :=
  s.uart.irqOut = lineLevel s.cfg.uartMode s.uart.block ∧ s.timer.irqOut = lineLevel .A s.timer.block

/-- 10_state.md R23: the controller's outputs follow its pending bits and masks. -/
abbrev Intc.OutputsFollowMasks (c : Intc) : Prop :=
  c.mOut = decide (c.pendingBits &&& c.mEnableBits ≠ 0#32) ∧ c.sOut = decide (c.pendingBits &&& c.sEnableBits ≠ 0#32)

/-- 42_timer.md R151: whenever the engine is running, the counter is not 0. -/
abbrev State.RunningCounts (s : State) : Prop := s.timer.running = true → s.timer.counter ≠ 0#32

/-- No pending bit at or above NUM_LINES (43_interrupt_controller.md R170, R171). -/
abbrev State.PendingLinesExist (s : State) : Prop := s.intc.pendingBits.toNat < 2 ^ s.cfg.wiring.numLines

/-- 41_uart.md R116: TX status is 1. -/
abbrev State.TxReady (s : State) : Prop := s.uart.block.status.getLsbD 0 = true

/-- 43_interrupt_controller.md R177, 60_exceptions.md R193: the controller holds the two peripherals' levels. -/
abbrev State.PathClosed (s : State) : Prop :=
  s.intc.pendingBits.getLsbD s.cfg.wiring.uartIrqLine = lineLevel s.cfg.uartMode s.uart.block
    ∧ s.intc.pendingBits.getLsbD s.cfg.wiring.timerIrqLine = lineLevel .A s.timer.block

/-- The invariant that every step keeps, whatever the environment does. -/
abbrev State.Inv (s : State) : Prop :=
  s.cfg.legal = true ∧ s.TripletsInside ∧ s.PendingFolded ∧ s.LinesFollowLevels ∧ s.intc.OutputsFollowMasks
    ∧ s.RunningCounts ∧ s.PendingLinesExist

/-! ## Lawful environments -/

/-- The operations that the agents of 00_scope.md R7 issue: no internal one, and no request on a line that the UART or the timer
drives. -/
def external (w : Wiring) : Instr → Bool
  | .intcInRequest line _ => decide (line ≠ w.uartIrqLine) && decide (line ≠ w.timerIrqLine)
  | i => !internal i

/-- A stimulus that asks for an external operation, or for none. -/
def Stimulus.external (w : Wiring) (x : Stimulus) : Bool :=
  match requestOf w x with
  | .op i => Sys2Proof.Machine.external w i
  | .elsewhere => true
  | .refuse _ => true

/-- A stimulus that asks for a reset of the controller alone (70_reset_and_hazards.md R234). -/
def Stimulus.resetsIntcAlone (w : Wiring) (x : Stimulus) : Bool := decide (requestOf w x = .op .intcReset)

/-- Only what the environment may issue is waiting: no internal call, and no stimulus but the environment's. -/
abbrev State.InboxExternal (s : State) : Prop := s.call = none ∧ ∀ x ∈ s.inbox, x.external s.cfg.wiring = true

/-- No stimulus issued resets the controller alone: the resets are system resets or peripheral resets (43 R177). -/
abbrev State.InboxKeepsPath (s : State) : Prop := ∀ x ∈ s.inbox, x.resetsIntcAlone s.cfg.wiring = false

/-! ## What an operation does, said over its end points -/

/-- From `c` to `c'` input line `line` took the level `level`, no other line and no mask changed, and both outputs follow
(43_interrupt_controller.md R170, R175). -/
abbrev LineDriven (line : Nat) (level : Bool) (c c' : Intc) : Prop :=
  (∀ k < 32, c'.pendingBits.getLsbD k = if k = line then level else c.pendingBits.getLsbD k)
    ∧ c'.mEnableBits = c.mEnableBits ∧ c'.sEnableBits = c.sEnableBits ∧ c'.OutputsFollowMasks

/-- From `s` to `t` the UART's triplet became `e`, its line was driven with the level of `e` into the controller
(60_exceptions.md R192), and neither the timer, the configuration, the inbox nor the internal call changed. -/
abbrev UartDriven (e : EventBlock) (s t : State) : Prop :=
  t.uart.block = e ∧ t.uart.irqOut = lineLevel s.cfg.uartMode e
    ∧ LineDriven s.cfg.wiring.uartIrqLine (lineLevel s.cfg.uartMode e) s.intc t.intc
    ∧ t.timer = s.timer ∧ t.cfg = s.cfg ∧ t.inbox = s.inbox ∧ t.call = s.call ∧ t.result = .nothing

/-- From `s` to `t` the timer's triplet became `e`, its line was driven with the level of `e` into the controller, and
neither the UART, the transmit record, the configuration, the inbox, the internal call nor the draws changed. -/
abbrev TimerDriven (e : EventBlock) (s t : State) : Prop :=
  t.timer.block = e ∧ t.timer.irqOut = lineLevel .A e
    ∧ LineDriven s.cfg.wiring.timerIrqLine (lineLevel .A e) s.intc t.intc
    ∧ t.uart = s.uart ∧ t.txlog = s.txlog ∧ t.draws = s.draws ∧ t.cfg = s.cfg ∧ t.inbox = s.inbox ∧ t.call = s.call
    ∧ t.result = .nothing

/-- The value a bus read of `n` bytes returns for the register value `r` (20_memory.md R41). -/
def readBytes (n : Nat) (r : Word) : Result := .word (BitVec.ofNat 32 (r.toNat % 2 ^ (8 * n)))

/-- `k` ticks in a row with no other operation between them (42_timer.md R145). -/
def ticks : Nat → State → Host.Outcome State Fault Refusal
  | 0, s => .next s
  | k + 1, s =>
    match exec .timerInTick s with
    | .next t => ticks k t
    | .fault r => .fault r
    | .refused r => .refused r

/-! ## Which operations may change what -/

/-- The width operand of a bus access. -/
def busWidth : Instr → Option Nat
  | .uartRdRxtx n | .uartRdTxfull n | .uartRdRxempty n | .uartRdEvStatus n | .uartRdEvPending n | .uartRdEvEnable n
  | .uartRdTxempty n | .uartRdRxfull n | .uartRdOther _ n
  | .uartWrRxtx n _ | .uartWrTxfull n _ | .uartWrRxempty n _ | .uartWrEvStatus n _ | .uartWrEvPending n _
  | .uartWrEvEnable n _ | .uartWrTxempty n _ | .uartWrRxfull n _ | .uartWrOther _ n _
  | .timerRdLoad n | .timerRdReload n | .timerRdEn n | .timerRdUpdateValue n | .timerRdValue n | .timerRdEvStatus n
  | .timerRdEvPending n | .timerRdEvEnable n | .timerRdOther _ n
  | .timerWrLoad n _ | .timerWrReload n _ | .timerWrEnStart n _ | .timerWrEnStop n _ | .timerWrUpdateValue n _
  | .timerWrValue n _ | .timerWrEvStatus n _ | .timerWrEvPending n _ | .timerWrEvEnable n _ | .timerWrOther _ n _ => some n
  | _ => none

/-- The reads without a side effect, and the accesses the spec says change nothing: every read but that of RXTX (20_memory.md
R46), `can_accept_byte()`, the four reads of the triplet, and the writes that do nothing (41 R109, R115; 42 R144, R148; 43
R174). -/
def changesNothing : Instr → Bool
  | .uartRdTxfull _ | .uartRdRxempty _ | .uartRdEvStatus _ | .uartRdEvPending _ | .uartRdEvEnable _ | .uartRdTxempty _
  | .uartRdRxfull _ | .uartRdOther _ _ | .uartInCanAcceptByte
  | .uartWrTxfull _ _ | .uartWrRxempty _ _ | .uartWrEvStatus _ _ | .uartWrTxempty _ _ | .uartWrRxfull _ _ | .uartWrOther _ _ _
  | .timerRdLoad _ | .timerRdReload _ | .timerRdEn _ | .timerRdUpdateValue _ | .timerRdValue _ | .timerRdEvStatus _
  | .timerRdEvPending _ | .timerRdEvEnable _ | .timerRdOther _ _
  | .timerWrValue _ _ | .timerWrEvStatus _ _ | .timerWrOther _ _ _
  | .intcRdMIrqEnable | .intcRdMIrqPending | .intcRdSIrqEnable | .intcRdSIrqPending
  | .intcWrMIrqPending _ | .intcWrSIrqPending _
  | .erbReadStatus _ | .erbReadPending _ | .erbReadEnable _ | .erbIrqLevel _ => true
  | _ => false

/-- The operations that may change the UART or what it has sent. -/
def touchesUart : Instr → Bool
  | .uartRdRxtx _ | .uartWrRxtx _ _ | .uartWrEvPending _ _ | .uartWrEvEnable _ _ | .uartInByteReceived _ | .uartReset
  | .sysReset => true
  | .erbClearPending d _ | .erbSetEnable d _ | .erbSignalEvent d _ | .erbClearStatus d _ => decide (d = .uart)
  | _ => false

/-- The operations that may change the timer. -/
def touchesTimer : Instr → Bool
  | .timerWrLoad _ _ | .timerWrReload _ _ | .timerWrEnStart _ _ | .timerWrEnStop _ _ | .timerWrUpdateValue _ _
  | .timerWrEvPending _ _ | .timerWrEvEnable _ _ | .timerInTick | .timerInUnderflow | .timerReset | .sysReset => true
  | .erbClearPending d _ | .erbSetEnable d _ | .erbSignalEvent d _ | .erbClearStatus d _ => decide (d = .timer)
  | _ => false

end Sys2Proof.Machine
end

