-- ==== Sys2Proof/Certificates/Slice0/Obligations.lean ====
section
/-! DEFINITION. The statements for the provers, in the order of the spec's files: encodings and dispatch, invariants, isolation, the
triplet, the UART, the timer, the controller, reset, the internal operations. -/

open Sys2Proof Sys2Proof.Machine

/-! ## Encodings, dispatch and the step -/

/-- Decoding the word of a well-formed operation gives the operation (30_encoding.md R62 to R67; the operand fields are the
model's, assumption log 3). -/
def Obligations.EncodedOperationDecodes : Prop :=
  ∀ i : Instr, i.wellFormed = true → decode (encode i) = .ok i

/-- A word that decodes is the word of a well-formed operation: no two words mean one operation, and no bit of a word is
dropped (assumption log 3). -/
def Obligations.DecodedWordIsItsEncoding : Prop :=
  ∀ (w : OpWord) (i : Instr), decode w = .ok i → i.wellFormed = true ∧ encode i = w

/-- Eight words written out: seven with the selectors of rows of 30_encoding.md R63 to R66 decode to their operations, and
0x00685140, in which bits 12 and 14 stand although its row has no operand there, is refused. The operand bits of five of the
words, and the bits that must be zero, are the MODEL's layout (assumption log 3). -/
def Obligations.SampleWordsDecode : Prop :=
  decode 0x100#112 = .ok (.uartRdRxtx 4)
    ∧ decode 0x00685140#112 = .error .reservedBits
    ∧ decode 0x0000000000680140#112 = .ok (.uartWrRxtx 4 0x68#32)
    ∧ decode 0x0000000000010248#112 = .ok (.timerWrEnStart 4 1#32)
    ∧ decode 0x248#112 = .ok (.timerWrEnStop 4 0#32)
    ∧ decode 0x30180#112 = .ok (.uartInByteReceived 3#8)
    ∧ decode 0x32380#112 = .ok (.intcInRequest 3 true)
    ∧ decode 0x0C0#112 = .ok .sysReset

/-- A step at a state whose first stimulus is a word that decodes to an operation `i` of an agent is `exec i` with that stimulus
taken from the inbox, and with nothing added around it; one at a state whose pending call is a word that decodes to an internal
operation `i` is `exec i` with the call taken (the inbox and the call are the model's, assumption logs 4 and 7). -/
def Obligations.StepRunsDecodedOperation : Prop :=
  (∀ (s : State) (w : OpWord) (rest : List Stimulus) (i : Instr),
      s.call = none → s.inbox = .operation w :: rest → decode w = .ok i → internal i = false →
        step s = exec i { s with inbox := rest })
    ∧ ∀ (s : State) (w : OpWord) (i : Instr),
        s.call = some w → decode w = .ok i → internal i = true → step s = exec i { s with call := none }

/-- 20_memory.md R41, R42: a bus access inside a window is the operation of the register at its offset; the value written is the
low n bytes of the one given (assumption log 21). -/
def Obligations.BusAccessSelectsRegister : Prop :=
  ∀ (s : State) (rest : List Stimulus) (off n : Nat) (v : Word),
    s.call = none → s.cfg.legal = true → off < s.cfg.wiring.windowSize →
      step { s with inbox := .memRead (s.cfg.wiring.uartBase + off) n :: rest }
          = exec (uartReadAt off n) { s with inbox := rest }
        ∧ step { s with inbox := .memWrite (s.cfg.wiring.uartBase + off) n v :: rest }
          = exec (uartWriteAt off n (BitVec.ofNat 32 (v.toNat % 2 ^ (8 * n)))) { s with inbox := rest }
        ∧ step { s with inbox := .memRead (s.cfg.wiring.timerBase + off) n :: rest }
          = exec (timerReadAt off n) { s with inbox := rest }
        ∧ step { s with inbox := .memWrite (s.cfg.wiring.timerBase + off) n v :: rest }
          = exec (timerWriteAt off n (BitVec.ofNat 32 (v.toNat % 2 ^ (8 * n)))) { s with inbox := rest }

/-- 20_memory.md R44 with the register maps of 30_encoding.md R63 and R64: the eight listed offsets select the eight registers,
the EN write by bit 0 of its data, and every other offset selects none. -/
def Obligations.RegisterOffsetsMatchExactly : Prop :=
  ∀ (n : Nat) (v : Word),
    [0x00, 0x04, 0x08, 0x0C, 0x10, 0x14, 0x18, 0x1C].map (uartReadAt · n)
        = [.uartRdRxtx n, .uartRdTxfull n, .uartRdRxempty n, .uartRdEvStatus n, .uartRdEvPending n, .uartRdEvEnable n,
            .uartRdTxempty n, .uartRdRxfull n]
      ∧ [0x00, 0x04, 0x08, 0x0C, 0x10, 0x14, 0x18, 0x1C].map (uartWriteAt · n v)
        = [.uartWrRxtx n v, .uartWrTxfull n v, .uartWrRxempty n v, .uartWrEvStatus n v, .uartWrEvPending n v,
            .uartWrEvEnable n v, .uartWrTxempty n v, .uartWrRxfull n v]
      ∧ [0x00, 0x04, 0x08, 0x0C, 0x10, 0x14, 0x18, 0x1C].map (timerReadAt · n)
        = [.timerRdLoad n, .timerRdReload n, .timerRdEn n, .timerRdUpdateValue n, .timerRdValue n, .timerRdEvStatus n,
            .timerRdEvPending n, .timerRdEvEnable n]
      ∧ [0x00, 0x04, 0x08, 0x0C, 0x10, 0x14, 0x18, 0x1C].map (timerWriteAt · n v)
        = [.timerWrLoad n v, .timerWrReload n v,
            if v.getLsbD 0 = true then .timerWrEnStart n v else .timerWrEnStop n v,
            .timerWrUpdateValue n v, .timerWrValue n v, .timerWrEvStatus n v, .timerWrEvPending n v, .timerWrEvEnable n v]
      ∧ ∀ off, off ∉ [0x00, 0x04, 0x08, 0x0C, 0x10, 0x14, 0x18, 0x1C] →
          uartReadAt off n = .uartRdOther off n ∧ uartWriteAt off n v = .uartWrOther off n v
            ∧ timerReadAt off n = .timerRdOther off n ∧ timerWriteAt off n v = .timerWrOther off n v

/-- 10_state.md R24: the four control-register numbers reach the four pseudo-registers. That the numbers of a legal configuration
differ is the MODEL's choice (assumption log 24). -/
def Obligations.PseudoNumberSelectsRegister : Prop :=
  ∀ (s : State) (rest : List Stimulus) (v : Word), s.call = none → s.cfg.legal = true →
    step { s with inbox := .pseudoRead s.cfg.wiring.mIrqEnableId :: rest } = exec .intcRdMIrqEnable { s with inbox := rest }
      ∧ step { s with inbox := .pseudoRead s.cfg.wiring.mIrqPendingId :: rest } = exec .intcRdMIrqPending { s with inbox := rest }
      ∧ step { s with inbox := .pseudoRead s.cfg.wiring.sIrqEnableId :: rest } = exec .intcRdSIrqEnable { s with inbox := rest }
      ∧ step { s with inbox := .pseudoRead s.cfg.wiring.sIrqPendingId :: rest } = exec .intcRdSIrqPending { s with inbox := rest }
      ∧ step { s with inbox := .pseudoWrite s.cfg.wiring.mIrqEnableId v :: rest }
        = exec (.intcWrMIrqEnable v) { s with inbox := rest }
      ∧ step { s with inbox := .pseudoWrite s.cfg.wiring.mIrqPendingId v :: rest }
        = exec (.intcWrMIrqPending v) { s with inbox := rest }
      ∧ step { s with inbox := .pseudoWrite s.cfg.wiring.sIrqEnableId v :: rest }
        = exec (.intcWrSIrqEnable v) { s with inbox := rest }
      ∧ step { s with inbox := .pseudoWrite s.cfg.wiring.sIrqPendingId v :: rest }
        = exec (.intcWrSIrqPending v) { s with inbox := rest }

/-- The MODEL's choice (assumption logs 4 and 6), on 30_encoding.md R60 "No other stimulus changes or reads the block's state": an
access at an address of neither window, a pseudo-register number that is none of the four, and an empty inbox leave the block
as it is. -/
def Obligations.StimulusOutsideTheBlockChangesNothing : Prop :=
  (∀ s : State, s.call = none → s.inbox = [] → step s = .next s)
    ∧ (∀ (s : State) (rest : List Stimulus) (a n : Nat) (v : Word) (x : Stimulus), s.call = none →
        (∀ off < s.cfg.wiring.windowSize, a ≠ s.cfg.wiring.uartBase + off ∧ a ≠ s.cfg.wiring.timerBase + off) →
          x ∈ [Stimulus.memRead a n, .memWrite a n v, .instrFetch a] →
            step { s with inbox := x :: rest } = .next { s with inbox := rest, result := .nothing })
    ∧ (∀ (s : State) (rest : List Stimulus) (id : Nat) (v : Word) (x : Stimulus), s.call = none →
        id ∉ [s.cfg.wiring.mIrqEnableId, s.cfg.wiring.mIrqPendingId, s.cfg.wiring.sIrqEnableId, s.cfg.wiring.sIrqPendingId] →
          x ∈ [Stimulus.pseudoRead id, .pseudoWrite id v] →
            step { s with inbox := x :: rest } = .next { s with inbox := rest, result := .nothing })

/-- 20_memory.md R53: an instruction fetch from either register window is refused. -/
def Obligations.InstructionFetchIsRefused : Prop :=
  ∀ (s : State) (rest : List Stimulus) (off : Nat), s.call = none → off < s.cfg.wiring.windowSize →
    step { s with inbox := .instrFetch (s.cfg.wiring.uartBase + off) :: rest } = .refused .instructionFetch
      ∧ step { s with inbox := .instrFetch (s.cfg.wiring.timerBase + off) :: rest } = .refused .instructionFetch

/-- 20_memory.md R45: an operation is refused for its width exactly when it is a bus access whose width is not 1, 2, 3 or 4. -/
def Obligations.AccessWidthIsOneToFour : Prop :=
  ∀ (i : Instr) (s : State),
    exec i s = .refused .accessWidth ↔ ∃ n, busWidth i = some n ∧ ¬(1 ≤ n ∧ n ≤ 4)

/-- 20_memory.md R50 with the refusals of 42_timer.md R134, R146 and 43_interrupt_controller.md R170: a well-formed operation is
refused in exactly four situations, and in every other it answers a next state. -/
def Obligations.WellFormedOperationsCompleteOrAreRefused : Prop :=
  ∀ (i : Instr) (s : State), i.wellFormed = true →
    ((¬∃ t, exec i s = .next t) ↔
      (∃ n v, i = .timerWrEnStart n v) ∧ s.timer.load = 0#32 ∧ s.timer.reloadLimit = 0#32
        ∨ i = .timerInTick ∧ s.timer.running = true ∧ s.timer.counter = 1#32 ∧ s.timer.oneShot = false
          ∧ s.timer.reloadLimit = 0#32
        ∨ i = .timerInUnderflow ∧ s.timer.oneShot = false ∧ s.timer.reloadLimit = 0#32
        ∨ ∃ line level, i = .intcInRequest line level ∧ s.cfg.wiring.numLines ≤ line)

/-! ## Invariants -/

/-- Every step keeps the invariant, whatever the environment issues (10_state.md R13, R14, R16, R23; 42_timer.md R151). -/
def Obligations.StepKeepsInvariant : Prop :=
  ∀ s t : State, s.Inv → step s = .next t → t.Inv

/-- 00_scope.md R8, 70_reset_and_hazards.md R220: construction refuses an illegal configuration and starts a legal one in a state
that has the invariant; `State.reset` has it. That equal pseudo-register numbers are illegal is the MODEL's choice (assumption
log 24). -/
def Obligations.ConstructionEstablishesInvariant : Prop :=
  (∀ c : Config, c.legal = false → construct c = .refused .illegalConfiguration)
    ∧ (∀ c : Config, c.legal = true → construct c = .next (State.initial c) ∧ (State.initial c).Inv)
    ∧ State.reset.Inv

/-- Every state that any number of steps reaches from construction, whatever list of stimuli the environment of 60_exceptions.md
R205 issues without resetting the controller alone, has the invariant, the interrupt path of R193 and TX status 1 (41_uart.md
R116). -/
def Obligations.EveryReachableStateIsLawful : Prop :=
  ∀ (c : Config) (xs : List Stimulus) (k : Nat) (t : State), c.legal = true →
    (∀ x ∈ xs, x.external c.wiring = true ∧ x.resetsIntcAlone c.wiring = false) →
      Host.Core.run Sys2Proof.core k { State.initial c with inbox := xs } = .next t → t.Inv ∧ t.PathClosed ∧ t.TxReady

/-- 10_state.md R13: the triplet fields never have a bit outside `EV_MASK`. The source states it of pending and enable; of status
the spec marks it as its own inference, from R86, R101, R110 and R146. -/
def Obligations.TripletBitsStayInsideEventMask : Prop :=
  (∀ c : Config, c.legal = true → (State.initial c).TripletsInside)
    ∧ ∀ s t : State, s.cfg.legal = true → s.TripletsInside → step s = .next t → t.cfg.legal = true ∧ t.TripletsInside

/-- 10_state.md R14: a mode (b) instance whose reset value of `pending` is 0 never has a pending bit outside `enable`. The spec
marks the law as its own inference, from R84, R85, R86 and R221. -/
def Obligations.PendingStaysInsideEnableInModeB : Prop :=
  (∀ c : Config, c.uartMode = .B → c.uartResetPending = 0#32 → (State.initial c).PendingFolded)
    ∧ ∀ s t : State, s.cfg.uartMode = .B → s.cfg.uartResetPending = 0#32 → s.PendingFolded → step s = .next t →
        t.cfg.uartMode = .B ∧ t.cfg.uartResetPending = 0#32 ∧ t.PendingFolded

/-- 10_state.md R16, R23 and 40_event_register_block.md R89: between operations each peripheral's line carries its level and the
controller's outputs follow its masks. -/
def Obligations.LinesAndOutputsFollowTheirRegisters : Prop :=
  (∀ c : Config, c.legal = true → (State.initial c).LinesFollowLevels ∧ (State.initial c).intc.OutputsFollowMasks)
    ∧ ∀ s t : State, s.LinesFollowLevels → s.intc.OutputsFollowMasks → step s = .next t →
        t.LinesFollowLevels ∧ t.intc.OutputsFollowMasks

/-- 42_timer.md R151: whenever the engine is running, the counter is not 0. The spec marks the invariant as its own inference,
from R130, R132, R134, R145 and R146. -/
def Obligations.RunningTimerHasNonzeroCounter : Prop :=
  (∀ c : Config, (State.initial c).RunningCounts)
    ∧ ∀ s t : State, s.RunningCounts → step s = .next t → t.RunningCounts

/-- 41_uart.md R116: TX status is 1 after construction, and every step the environment can cause keeps it. The spec marks the
sentence as its own inference, from R101, R102 and R221. -/
def Obligations.TxStatusIsConstant : Prop :=
  (∀ c : Config, (State.initial c).TxReady)
    ∧ ∀ s t : State, s.InboxExternal → s.TxReady → step s = .next t → t.TxReady

/-- 42_timer.md R153: the timer's status becomes 0 by a reset, gains ZERO by the tick that takes a running counter from 1 to 0,
and no other external operation changes it. -/
def Obligations.ZeroStatusIsSticky : Prop :=
  ∀ (i : Instr) (s t : State), external s.cfg.wiring i = true → exec i s = .next t →
    t.timer.block.status
      = if i = .timerReset ∨ i = .sysReset then 0#32
        else if i = .timerInTick ∧ s.timer.running = true ∧ s.timer.counter = 1#32 then s.timer.block.status ||| 0x1#32
        else s.timer.block.status

/-- 60_exceptions.md R193, 43_interrupt_controller.md R177: a step that the environment can cause, other than a reset of the
controller alone, keeps the two peripherals' levels in the controller's pending bits. And 60_exceptions.md R192 (D31),
70_reset_and_hazards.md R234: a bit that a reset of the controller alone lost comes back at the peripheral's next mutating
operation, for after every such operation the peripheral's line and the pending bit of that line carry its level, whatever stood
there before. The mutating operations are those that may change the peripheral; a tick is one while the engine runs (42_timer.md
R145; which they are is the MODEL's reading, assumption log 25). -/
def Obligations.InterruptPathStaysClosed : Prop :=
  (∀ s t : State, s.cfg.legal = true → s.InboxExternal → s.InboxKeepsPath → s.PathClosed → step s = .next t → t.PathClosed)
    ∧ ∀ (i : Instr) (s t : State), s.cfg.legal = true → exec i s = .next t →
        (touchesUart i = true →
            t.uart.irqOut = lineLevel t.cfg.uartMode t.uart.block
              ∧ t.intc.pendingBits.getLsbD t.cfg.wiring.uartIrqLine = lineLevel t.cfg.uartMode t.uart.block)
          ∧ (touchesTimer i = true → (i = .timerInTick → s.timer.running = true) →
            t.timer.irqOut = lineLevel .A t.timer.block
              ∧ t.intc.pendingBits.getLsbD t.cfg.wiring.timerIrqLine = lineLevel .A t.timer.block)

/-- 10_state.md R22, 60_exceptions.md R193 (last equation): the pending bit of a line that neither peripheral drives is the level
that the last request on it delivered; a reset of the controller clears it. -/
def Obligations.OtherLinesHoldTheLastLevelDelivered : Prop :=
  ∀ (i : Instr) (s t : State) (k : Nat), exec i s = .next t → k < 32 → k ≠ s.cfg.wiring.uartIrqLine →
    k ≠ s.cfg.wiring.timerIrqLine →
      (∀ level, i = .intcInRequest k level → t.intc.pendingBits.getLsbD k = level)
        ∧ (i = .intcReset ∨ i = .sysReset → t.intc.pendingBits.getLsbD k = false)
        ∧ ((∀ level, i ≠ .intcInRequest k level) → i ≠ .intcReset → i ≠ .sysReset →
            t.intc.pendingBits.getLsbD k = s.intc.pendingBits.getLsbD k)

/-- 00_scope.md R8: no step changes the configuration; and a step takes the first stimulus, or the pending call and no stimulus
(assumption logs 4 and 7). -/
def Obligations.StepKeepsConfiguration : Prop :=
  ∀ s t : State, step s = .next t →
    t.cfg = s.cfg ∧ (s.call = none → t.inbox = s.inbox.tail) ∧ (∀ w, s.call = some w → t.inbox = s.inbox)

/-! ## Isolation -/

/-- 20_memory.md R46: every read but that of RXTX, and every access that the spec says does nothing, changes nothing but the value
returned. -/
def Obligations.ReadsChangeNothing : Prop :=
  ∀ (i : Instr) (s t : State), changesNothing i = true → exec i s = .next t → t = { s with result := t.result }

/-- 20_memory.md R51, R40: an operation of one device changes no state of the other. -/
def Obligations.PeripheralsAreIsolated : Prop :=
  ∀ (i : Instr) (s t : State), exec i s = .next t →
    (touchesUart i = false → t.uart = s.uart ∧ t.txlog = s.txlog) ∧ (touchesTimer i = false → t.timer = s.timer)

/-- 43_interrupt_controller.md R171: an enable mask changes only by a write of its own pseudo-register, which replaces it, or by a
reset of the controller, which clears it. -/
def Obligations.EnableMasksChangeOnlyByTheirOwnWrites : Prop :=
  ∀ (i : Instr) (s t : State), exec i s = .next t →
    (∀ v, i = .intcWrMIrqEnable v → t.intc.mEnableBits = v)
      ∧ (∀ v, i = .intcWrSIrqEnable v → t.intc.sEnableBits = v)
      ∧ (i = .intcReset ∨ i = .sysReset → t.intc.mEnableBits = 0#32 ∧ t.intc.sEnableBits = 0#32)
      ∧ ((∀ v, i ≠ .intcWrMIrqEnable v) → i ≠ .intcReset → i ≠ .sysReset → t.intc.mEnableBits = s.intc.mEnableBits)
      ∧ ((∀ v, i ≠ .intcWrSIrqEnable v) → i ≠ .intcReset → i ≠ .sysReset → t.intc.sEnableBits = s.intc.sEnableBits)

/-- 41_uart.md R101: a byte leaves by an RXTX write, one byte a write, and by nothing else; no reset changes what was sent (D27). -/
def Obligations.BytesLeaveOnlyByRxtxWrites : Prop :=
  ∀ (i : Instr) (s t : State), exec i s = .next t →
    (∀ n v, i = .uartWrRxtx n v → t.txlog = s.txlog ++ [v.setWidth 8])
      ∧ ((∀ n v, i ≠ .uartWrRxtx n v) → t.txlog = s.txlog)

/-- 60_exceptions.md R191 (UART receive-ready): RX status is set by a received byte, cleared by an RXTX read and by a reset, and
changed by no other external operation. -/
def Obligations.RxStatusFollowsTheReceiveCell : Prop :=
  ∀ (i : Instr) (s t : State), external s.cfg.wiring i = true → exec i s = .next t →
    ((∃ b, i = .uartInByteReceived b) → t.uart.block.status.getLsbD 1 = true)
      ∧ ((∃ n, i = .uartRdRxtx n) ∨ i = .uartReset ∨ i = .sysReset → t.uart.block.status.getLsbD 1 = false)
      ∧ ((∀ b, i ≠ .uartInByteReceived b) → (∀ n, i ≠ .uartRdRxtx n) → i ≠ .uartReset → i ≠ .sysReset →
          t.uart.block.status.getLsbD 1 = s.uart.block.status.getLsbD 1)

/-! ## The triplet -/

/-- 40_event_register_block.md R80 to R83: the four reads of a triplet return its fields and its level, and change nothing else. -/
def Obligations.TripletReadsReturnTheFields : Prop :=
  ∀ s : State,
    exec (.erbReadStatus .uart) s = .next { s with result := .word s.uart.block.status }
      ∧ exec (.erbReadPending .uart) s = .next { s with result := .word s.uart.block.pending }
      ∧ exec (.erbReadEnable .uart) s = .next { s with result := .word s.uart.block.enable }
      ∧ exec (.erbIrqLevel .uart) s = .next { s with result := .flag (lineLevel s.cfg.uartMode s.uart.block) }
      ∧ exec (.erbReadStatus .timer) s = .next { s with result := .word s.timer.block.status }
      ∧ exec (.erbReadPending .timer) s = .next { s with result := .word s.timer.block.pending }
      ∧ exec (.erbReadEnable .timer) s = .next { s with result := .word s.timer.block.enable }
      ∧ exec (.erbIrqLevel .timer) s = .next { s with result := .flag (lineLevel .A s.timer.block) }

/-- 40_event_register_block.md R86: a signalled event sets status and latches pending, always in mode (a) and iff enabled in mode
(b), and drives the line; a bit that is no event of the instance is refused (the model's reading of R86's operands, assumption logs 9 and
15). -/
def Obligations.SignalledEventIsLatchedByMode : Prop :=
  ∀ (s : State) (bit : Nat),
    (bit < 2 → ∃ t, exec (.erbSignalEvent .uart bit) s = .next t
      ∧ UartDriven
          { s.uart.block with
              status := s.uart.block.status ||| BitVec.twoPow 32 bit,
              pending := s.uart.block.pending
                ||| (if s.cfg.uartMode = .A then BitVec.twoPow 32 bit else s.uart.block.enable &&& BitVec.twoPow 32 bit) } s t
      ∧ t.uart.rx = s.uart.rx ∧ t.txlog = s.txlog ∧ t.draws = s.draws)
      ∧ (bit < 1 → ∃ t, exec (.erbSignalEvent .timer bit) s = .next t
        ∧ TimerDriven
            { s.timer.block with status := s.timer.block.status ||| 1#32, pending := s.timer.block.pending ||| 1#32 } s t
        ∧ t.timer = { s.timer with block := t.timer.block, irqOut := t.timer.irqOut })
      ∧ (2 ≤ bit → exec (.erbSignalEvent .uart bit) s = .refused .undefinedEvent)
      ∧ (1 ≤ bit → exec (.erbSignalEvent .timer bit) s = .refused .undefinedEvent)

/-- 40_event_register_block.md R87: `clear_status` clears the bits from status only; the line is driven with the level, which does
not depend on status (60_exceptions.md R192; that R192 holds of it although R87 says no drive is needed is the MODEL's reading,
assumption log 25). -/
def Obligations.ClearStatusLeavesPending : Prop :=
  ∀ (s : State) (m : Word),
    (∃ t, exec (.erbClearStatus .uart m) s = .next t
        ∧ UartDriven { s.uart.block with status := s.uart.block.status &&& ~~~m } s t
        ∧ t.uart.rx = s.uart.rx ∧ t.txlog = s.txlog ∧ t.draws = s.draws)
      ∧ ∃ t, exec (.erbClearStatus .timer m) s = .next t
        ∧ TimerDriven { s.timer.block with status := s.timer.block.status &&& ~~~m } s t
        ∧ t.timer = { s.timer with block := t.timer.block, irqOut := t.timer.irqOut }

/-- 40_event_register_block.md R90: the law of the mode (b) enable write, for both values of `SET_ENABLE_RELATCH`. The spec marks
the law as its own inference, from the per-bit table of R85. -/
def Obligations.EnableWriteLawOfModeB : Prop :=
  ∀ (s t : State) (m : Word), s.cfg.uartMode = .B → exec (.erbSetEnable .uart m) s = .next t →
    (s.cfg.enableRelatch = .allEnabled
        ∨ s.uart.block.enable &&& (m &&& 0x3#32) &&& s.uart.block.status &&& ~~~s.uart.block.pending = 0#32) →
      t.uart.block.pending = (s.uart.block.pending &&& (m &&& 0x3#32)) ||| (s.uart.block.status &&& (m &&& 0x3#32))

/-- 40_event_register_block.md R92, 95_test_vectors.md P4: an event whose status was set and cleared while it was disabled is
remembered in mode (a), where enabling it interrupts at once, and lost in mode (b). -/
def Obligations.MomentaryEventIsRememberedInModeAOnly : Prop :=
  ∀ (s : State) (b : Byte), ∃ t1 t2 t3 t4,
    exec (.uartWrEvEnable 4 0#32) s = .next t1 ∧ exec (.uartInByteReceived b) t1 = .next t2
      ∧ exec (.uartRdRxtx 4) t2 = .next t3 ∧ exec (.uartWrEvEnable 4 0x2#32) t3 = .next t4
      ∧ (s.cfg.uartMode = .A → t4.uart.block.pending.getLsbD 1 = true ∧ t4.uart.irqOut = true)
      ∧ (s.cfg.uartMode = .B → t4.uart.block.pending = 0#32 ∧ t4.uart.irqOut = false)

/-- 40_event_register_block.md R93, 95_test_vectors.md P5: an enable write and the arrival of a byte give the same state in either
order, and the event is pending if the write enables RX. -/
def Obligations.EnableWriteAndByteCommute : Prop :=
  ∀ (s : State) (n : Nat) (v : Word) (b : Byte), 1 ≤ n → n ≤ 4 → v.toNat < 2 ^ (8 * n) →
    ∃ t1 t2 u,
      exec (.uartWrEvEnable n v) s = .next t1 ∧ exec (.uartInByteReceived b) t1 = .next u
        ∧ exec (.uartInByteReceived b) s = .next t2 ∧ exec (.uartWrEvEnable n v) t2 = .next u
        ∧ (v.getLsbD 1 = true → u.uart.block.pending.getLsbD 1 = true)

/-- 70_reset_and_hazards.md R233: in mode (a) a write to EV_PENDING leaves every bit that is enabled and active as it is, and TX
with it. -/
def Obligations.ActiveEventCannotBeAcknowledgedInModeA : Prop :=
  ∀ (s t : State) (n : Nat) (v : Word), s.cfg.uartMode = .A → exec (.uartWrEvPending n v) s = .next t →
    ∀ k, s.uart.block.enable.getLsbD k = true → s.uart.block.status.getLsbD k = true →
      t.uart.block.pending.getLsbD k = s.uart.block.pending.getLsbD k

/-! ## The UART -/

/-- 41_uart.md R103 to R106, R111 to R114: the seven reads without a side effect, and the transport's query. -/
def Obligations.UartReadsWithoutSideEffect : Prop :=
  ∀ (s : State) (n : Nat), 1 ≤ n → n ≤ 4 →
    exec (.uartRdTxfull n) s
        = .next { s with result := readBytes n (if s.uart.block.status.getLsbD 0 = true then 0#32 else 1#32) }
      ∧ exec (.uartRdRxempty n) s
        = .next { s with result := readBytes n (if s.uart.block.pending.getLsbD 1 = true then 0#32 else 1#32) }
      ∧ exec (.uartRdTxempty n) s
        = .next { s with result := readBytes n (if s.uart.block.status.getLsbD 0 = true then 1#32 else 0#32) }
      ∧ exec (.uartRdRxfull n) s
        = .next { s with result := readBytes n (if s.uart.block.status.getLsbD 1 = true then 1#32 else 0#32) }
      ∧ exec (.uartRdEvStatus n) s = .next { s with result := readBytes n s.uart.block.status }
      ∧ exec (.uartRdEvPending n) s = .next { s with result := readBytes n s.uart.block.pending }
      ∧ exec (.uartRdEvEnable n) s = .next { s with result := readBytes n s.uart.block.enable }
      ∧ exec .uartInCanAcceptByte s = .next { s with result := .flag (!s.uart.block.status.getLsbD 1) }

/-- 41_uart.md R102: an RXTX read returns the held byte and clears RX status; pending and the cell stay, and the line is driven
with its level (60_exceptions.md R192; that it is driven also when RX status was 0 is the MODEL's choice, assumption log 25). -/
def Obligations.RxtxReadReturnsHeldByte : Prop :=
  ∀ (s : State) (n : Nat), 1 ≤ n → n ≤ 4 →
    ∃ t, exec (.uartRdRxtx n) s = .next t
      ∧ t.result = readBytes n (BitVec.ofNat 32 s.uart.rx.toNat)
      ∧ UartDriven { s.uart.block with status := s.uart.block.status &&& ~~~0x2#32 } s { t with result := .nothing }
      ∧ t.uart.rx = s.uart.rx ∧ t.txlog = s.txlog ∧ t.draws = s.draws

/-- 41_uart.md R101: an RXTX write sends the low byte and signals TX. -/
def Obligations.RxtxWriteSendsAndSignals : Prop :=
  ∀ (s : State) (n : Nat) (v : Word), 1 ≤ n → n ≤ 4 → v.toNat < 2 ^ (8 * n) →
    ∃ t, exec (.uartWrRxtx n v) s = .next t
      ∧ UartDriven
          { s.uart.block with
              status := s.uart.block.status ||| 0x1#32,
              pending := s.uart.block.pending
                ||| (if s.cfg.uartMode = .A then 0x1#32 else s.uart.block.enable &&& 0x1#32) } s t
      ∧ t.txlog = s.txlog ++ [v.setWidth 8] ∧ t.uart.rx = s.uart.rx ∧ t.draws = s.draws

/-- 41_uart.md R110: a received byte overwrites the cell and signals RX. -/
def Obligations.ReceivedByteIsHeldAndSignalled : Prop :=
  ∀ (s : State) (b : Byte),
    ∃ t, exec (.uartInByteReceived b) s = .next t
      ∧ UartDriven
          { s.uart.block with
              status := s.uart.block.status ||| 0x2#32,
              pending := s.uart.block.pending
                ||| (if s.cfg.uartMode = .A then 0x2#32 else s.uart.block.enable &&& 0x2#32) } s t
      ∧ t.uart.rx = b ∧ t.txlog = s.txlog ∧ t.draws = s.draws

/-- 41_uart.md R107, 40_event_register_block.md R84: a write of EV_PENDING clears the written bits, in mode (a) all but those
enabled and active, and drives the line; the operation of the triplet does the same. -/
def Obligations.UartPendingWriteClears : Prop :=
  ∀ (s : State) (n : Nat) (v : Word) (i : Instr),
    (i = .uartWrEvPending n v ∧ 1 ≤ n ∧ n ≤ 4 ∧ v.toNat < 2 ^ (8 * n) ∨ i = .erbClearPending .uart v) →
      ∃ t, exec i s = .next t
        ∧ UartDriven
            { s.uart.block with
                pending :=
                  if s.cfg.uartMode = .A then
                    s.uart.block.pending &&& ~~~(v &&& ~~~(s.uart.block.enable &&& s.uart.block.status))
                  else s.uart.block.pending &&& ~~~v } s t
        ∧ t.uart.rx = s.uart.rx ∧ t.txlog = s.txlog ∧ t.draws = s.draws

/-- 41_uart.md R108, 40_event_register_block.md R85: a write of EV_ENABLE replaces the mask by the legal bits written; in mode (b) it
also re-latches the candidates active in status and drops the bits disabled; the operation of the triplet does the same. -/
def Obligations.UartEnableWriteReplaces : Prop :=
  ∀ (s : State) (n : Nat) (v : Word) (i : Instr),
    (i = .uartWrEvEnable n v ∧ 1 ≤ n ∧ n ≤ 4 ∧ v.toNat < 2 ^ (8 * n) ∨ i = .erbSetEnable .uart v) →
      ∃ t, exec i s = .next t
        ∧ UartDriven
            { s.uart.block with
                enable := v &&& 0x3#32,
                pending :=
                  if s.cfg.uartMode = .A then s.uart.block.pending
                  else if s.cfg.enableRelatch = .newlyEnabled then
                    (s.uart.block.pending ||| (v &&& 0x3#32 &&& ~~~s.uart.block.enable &&& s.uart.block.status)) &&& (v &&& 0x3#32)
                  else (s.uart.block.pending ||| (v &&& 0x3#32 &&& s.uart.block.status)) &&& (v &&& 0x3#32) } s t
        ∧ t.uart.rx = s.uart.rx ∧ t.txlog = s.txlog ∧ t.draws = s.draws

/-- 41_uart.md R109, R115; 42_timer.md R144, R148: a write to a read-only register changes nothing, and an access at any other
offset reads zero and writes nothing. -/
def Obligations.IgnoredWritesAndOtherOffsets : Prop :=
  ∀ (s : State) (off n : Nat) (v : Word) (i : Instr), 1 ≤ n → n ≤ 4 →
    (i ∈ [Instr.uartWrTxfull n v, .uartWrRxempty n v, .uartWrEvStatus n v, .uartWrTxempty n v, .uartWrRxfull n v,
        .uartWrOther off n v, .timerWrValue n v, .timerWrEvStatus n v, .timerWrOther off n v] →
      exec i s = .next { s with result := .nothing })
      ∧ exec (.uartRdOther off n) s = .next { s with result := .word 0#32 }
      ∧ exec (.timerRdOther off n) s = .next { s with result := .word 0#32 }

/-- 70_reset_and_hazards.md R221: the reset of the UART; its line is driven low into the controller in a legal configuration.
The byte it leaves in the receive cell is the value drawn, of which nothing is known: that it is drawn by a counter is the
MODEL's choice (assumption log 2). -/
def Obligations.UartResetBaseline : Prop :=
  ∀ s : State, s.cfg.legal = true →
    ∃ t, exec .uartReset s = .next t
      ∧ UartDriven { status := 0x1#32, pending := s.cfg.uartResetPending, enable := 0x0#32 } s t
      ∧ t.uart.irqOut = false ∧ t.uart.rx = Config.uartRxReset s.draws ∧ t.txlog = s.txlog

/-! ## The timer -/

/-- 42_timer.md R131, R133, R136, R138 to R141, R147: the reads of the timer. -/
def Obligations.TimerReads : Prop :=
  ∀ (s : State) (n : Nat), 1 ≤ n → n ≤ 4 →
    exec (.timerRdLoad n) s = .next { s with result := readBytes n s.timer.load }
      ∧ exec (.timerRdReload n) s = .next { s with result := readBytes n s.timer.reloadLimit }
      ∧ exec (.timerRdEn n) s = .next { s with result := readBytes n (if s.timer.enabled = true then 1#32 else 0#32) }
      ∧ exec (.timerRdUpdateValue n) s = .next { s with result := .word 0#32 }
      ∧ exec (.timerRdValue n) s = .next { s with result := readBytes n s.timer.value }
      ∧ exec (.timerRdEvStatus n) s = .next { s with result := readBytes n s.timer.block.status }
      ∧ exec (.timerRdEvPending n) s = .next { s with result := readBytes n s.timer.block.pending }
      ∧ exec (.timerRdEvEnable n) s = .next { s with result := readBytes n s.timer.block.enable }

/-- 42_timer.md R130, R132, R135, R137: the writes of LOAD, RELOAD, EN (stop) and UPDATE_VALUE change only what they name, and
drive the line with its level, which they do not change (60_exceptions.md R192). -/
def Obligations.TimerPlainWrites : Prop :=
  ∀ (s : State) (n : Nat) (v : Word), 1 ≤ n → n ≤ 4 →
    (v.toNat < 2 ^ (8 * n) →
      (∃ t, exec (.timerWrLoad n v) s = .next t ∧ TimerDriven s.timer.block s t
          ∧ t.timer = { s.timer with load := v, irqOut := t.timer.irqOut })
        ∧ ∃ t, exec (.timerWrReload n v) s = .next t ∧ TimerDriven s.timer.block s t
          ∧ t.timer = { s.timer with reloadLimit := v, irqOut := t.timer.irqOut })
      ∧ (∃ t, exec (.timerWrEnStop n v) s = .next t ∧ TimerDriven s.timer.block s t
          ∧ t.timer = { s.timer with running := false, enabled := false, irqOut := t.timer.irqOut })
      ∧ ∃ t, exec (.timerWrUpdateValue n v) s = .next t ∧ TimerDriven s.timer.block s t
          ∧ t.timer = { s.timer with value := s.timer.counter, irqOut := t.timer.irqOut }

/-- 42_timer.md R134: a start runs once from a staged LOAD value, else repeatedly from RELOAD, and is refused with count 0. A
start drives the line with its level, which it does not change (60_exceptions.md R192). -/
def Obligations.TimerStartChoosesTheMode : Prop :=
  ∀ (s : State) (n : Nat) (v : Word), 1 ≤ n → n ≤ 4 →
    (s.timer.load ≠ 0#32 →
      ∃ t, exec (.timerWrEnStart n v) s = .next t ∧ TimerDriven s.timer.block s t
        ∧ t.timer = { s.timer with
            enabled := true, oneShot := true, counter := s.timer.load, running := true, irqOut := t.timer.irqOut })
      ∧ (s.timer.load = 0#32 → s.timer.reloadLimit ≠ 0#32 →
        ∃ t, exec (.timerWrEnStart n v) s = .next t ∧ TimerDriven s.timer.block s t
          ∧ t.timer = { s.timer with
              enabled := true, oneShot := false, counter := s.timer.reloadLimit, running := true, irqOut := t.timer.irqOut })
      ∧ (s.timer.load = 0#32 → s.timer.reloadLimit = 0#32 → exec (.timerWrEnStart n v) s = .refused .timerCountZero)

/-- 42_timer.md R142, R143: a write of EV_PENDING clears exactly the written bits, so that the line falls whenever ZERO is among
them; a write of EV_ENABLE replaces the mask and keeps pending; the operations of the triplet do the same. -/
def Obligations.TimerEventWrites : Prop :=
  ∀ (s : State) (n : Nat) (v : Word) (i : Instr),
    (i = .timerWrEvPending n v ∧ 1 ≤ n ∧ n ≤ 4 ∧ v.toNat < 2 ^ (8 * n) ∨ i = .erbClearPending .timer v →
      ∃ t, exec i s = .next t
        ∧ TimerDriven { s.timer.block with pending := s.timer.block.pending &&& ~~~v } s t
        ∧ t.timer = { s.timer with block := t.timer.block, irqOut := t.timer.irqOut }
        ∧ (s.TripletsInside → v.getLsbD 0 = true → t.timer.block.pending = 0#32 ∧ t.timer.irqOut = false))
      ∧ (i = .timerWrEvEnable n v ∧ 1 ≤ n ∧ n ≤ 4 ∧ v.toNat < 2 ^ (8 * n) ∨ i = .erbSetEnable .timer v →
        ∃ t, exec i s = .next t
          ∧ TimerDriven { s.timer.block with enable := v &&& 0x1#32 } s t
          ∧ t.timer = { s.timer with block := t.timer.block, irqOut := t.timer.irqOut })

/-- 42_timer.md R145, R146: a tick does nothing while stopped, counts a running counter down by one, and at 1 performs the
underflow: the ZERO event, then the end of a one-shot run or the reload of a repeating one; a reload with period 0 is
refused. A tick of a running engine drives the line (60_exceptions.md R192). -/
def Obligations.TickCountsDownAndUnderflows : Prop :=
  ∀ s : State,
    (s.timer.running = false → exec .timerInTick s = .next { s with result := .nothing })
      ∧ (s.timer.running = true → 1 < s.timer.counter.toNat →
        ∃ t, exec .timerInTick s = .next t ∧ TimerDriven s.timer.block s t
          ∧ t.timer = { s.timer with
              counter := BitVec.ofNat 32 (s.timer.counter.toNat - 1), irqOut := t.timer.irqOut })
      ∧ (s.timer.running = true → s.timer.counter = 1#32 → (s.timer.oneShot = true ∨ s.timer.reloadLimit ≠ 0#32) →
        ∃ t, exec .timerInTick s = .next t
          ∧ TimerDriven
              { s.timer.block with status := s.timer.block.status ||| 0x1#32, pending := s.timer.block.pending ||| 0x1#32 } s t
          ∧ t.timer = { s.timer with
              block := t.timer.block, irqOut := t.timer.irqOut, running := !s.timer.oneShot,
              counter := if s.timer.oneShot = true then 0#32 else s.timer.reloadLimit })
      ∧ (s.timer.running = true → s.timer.counter = 1#32 → s.timer.oneShot = false → s.timer.reloadLimit = 0#32 →
        exec .timerInTick s = .refused .timerCountZero)

/-- 42_timer.md R146, of the operation by itself, as a tick performs it; no stimulus issues it on its own (30_encoding.md R64,
assumption log 7). -/
def Obligations.UnderflowSignalsZero : Prop :=
  ∀ s : State,
    ((s.timer.oneShot = true ∨ s.timer.reloadLimit ≠ 0#32) →
      ∃ t, exec .timerInUnderflow s = .next t
        ∧ TimerDriven
            { s.timer.block with status := s.timer.block.status ||| 0x1#32, pending := s.timer.block.pending ||| 0x1#32 } s t
        ∧ t.timer = { s.timer with
            block := t.timer.block, irqOut := t.timer.irqOut,
            running := if s.timer.oneShot = true then false else s.timer.running,
            counter := if s.timer.oneShot = true then s.timer.counter else s.timer.reloadLimit })
      ∧ (s.timer.oneShot = false → s.timer.reloadLimit = 0#32 → exec .timerInUnderflow s = .refused .timerCountZero)

/-- 42_timer.md R152 (one-shot): after a start with `load = c`, not 0, the first c - 1 ticks only count down, the c-th performs the
underflow and stops the engine, and no later tick changes the timer. -/
def Obligations.OneShotRunFiresOnceAndStops : Prop :=
  ∀ (s : State) (n : Nat) (v : Word), 1 ≤ n → n ≤ 4 → s.timer.load ≠ 0#32 →
    ∃ s0, exec (.timerWrEnStart n v) s = .next s0
      ∧ ∀ k, ∃ t, ticks k s0 = .next t
          ∧ t.timer.enabled = true ∧ t.timer.running = decide (k < s.timer.load.toNat)
          ∧ t.timer.counter.toNat = s.timer.load.toNat - k
          ∧ (k < s.timer.load.toNat → t.timer.block = s.timer.block)
          ∧ (s.timer.load.toNat ≤ k →
              t.timer.block = { s.timer.block with
                status := s.timer.block.status ||| 0x1#32, pending := s.timer.block.pending ||| 0x1#32 })

/-- 42_timer.md R152 (repeating): after a start with `load = 0` and `reload_limit = p`, not 0, the engine runs for ever, the count
after k ticks is p - k mod p, and ZERO is pending from the p-th tick on; so the p-th, 2p-th, ... tick each restart at p. -/
def Obligations.RepeatingRunHasPeriodReload : Prop :=
  ∀ (s : State) (n : Nat) (v : Word), 1 ≤ n → n ≤ 4 → s.timer.load = 0#32 → s.timer.reloadLimit ≠ 0#32 →
    ∃ s0, exec (.timerWrEnStart n v) s = .next s0
      ∧ ∀ k, ∃ t, ticks k s0 = .next t
          ∧ t.timer.running = true ∧ t.timer.oneShot = false
          ∧ t.timer.counter.toNat = s.timer.reloadLimit.toNat - k % s.timer.reloadLimit.toNat
          ∧ (k < s.timer.reloadLimit.toNat → t.timer.block = s.timer.block)
          ∧ (s.timer.reloadLimit.toNat ≤ k →
              t.timer.block = { s.timer.block with
                status := s.timer.block.status ||| 0x1#32, pending := s.timer.block.pending ||| 0x1#32 })

/-- 70_reset_and_hazards.md R232: VALUE is a snapshot: however many ticks pass, it, LOAD, RELOAD and EN stay as they were. -/
def Obligations.SnapshotSurvivesTicks : Prop :=
  ∀ (k : Nat) (s t : State), ticks k s = .next t →
    t.timer.value = s.timer.value ∧ t.timer.load = s.timer.load ∧ t.timer.reloadLimit = s.timer.reloadLimit
      ∧ t.timer.enabled = s.timer.enabled ∧ t.uart = s.uart ∧ t.txlog = s.txlog

/-- 70_reset_and_hazards.md R222: the reset of the timer. -/
def Obligations.TimerResetBaseline : Prop :=
  ∀ s : State,
    ∃ t, exec .timerReset s = .next t
      ∧ TimerDriven { status := 0#32, pending := 0#32, enable := 0#32 } s t
      ∧ t.timer = { block := { status := 0#32, pending := 0#32, enable := 0#32 }, load := 0#32, reloadLimit := 0#32,
                    counter := 0#32, value := 0#32, enabled := false, running := false, oneShot := false,
                    tickRate := s.cfg.wiring.timerFreqHz, irqOut := false }

/-! ## The interrupt controller -/

/-- 43_interrupt_controller.md R172, R173, R174: the reads of the pseudo-registers, and the writes of the pending ones, which do
nothing. -/
def Obligations.PseudoReadsAndIgnoredWrites : Prop :=
  ∀ (s : State) (v : Word),
    exec .intcRdMIrqEnable s = .next { s with result := .word s.intc.mEnableBits }
      ∧ exec .intcRdSIrqEnable s = .next { s with result := .word s.intc.sEnableBits }
      ∧ exec .intcRdMIrqPending s = .next { s with result := .word s.intc.pendingBits }
      ∧ exec .intcRdSIrqPending s = .next { s with result := .word s.intc.pendingBits }
      ∧ exec (.intcWrMIrqPending v) s = .next { s with result := .nothing }
      ∧ exec (.intcWrSIrqPending v) s = .next { s with result := .nothing }

/-- 43_interrupt_controller.md R171: a write of an enable pseudo-register replaces the whole mask of its role and recomputes both
outputs. -/
def Obligations.EnablePseudoWriteReplacesMask : Prop :=
  ∀ (s : State) (v : Word),
    exec (.intcWrMIrqEnable v) s
        = .next { s with
            intc := { s.intc with
              mEnableBits := v, mOut := decide (s.intc.pendingBits &&& v ≠ 0#32),
              sOut := decide (s.intc.pendingBits &&& s.intc.sEnableBits ≠ 0#32) },
            result := .nothing }
      ∧ exec (.intcWrSIrqEnable v) s
        = .next { s with
            intc := { s.intc with
              sEnableBits := v, mOut := decide (s.intc.pendingBits &&& s.intc.mEnableBits ≠ 0#32),
              sOut := decide (s.intc.pendingBits &&& v ≠ 0#32) },
            result := .nothing }

/-- 43_interrupt_controller.md R170: a request delivers its level to one line and recomputes both outputs; a line at or above
NUM_LINES is refused. -/
def Obligations.RequestDeliversALevel : Prop :=
  ∀ (s : State) (line : Nat) (level : Bool),
    (line < s.cfg.wiring.numLines →
      ∃ t, exec (.intcInRequest line level) s = .next t ∧ LineDriven line level s.intc t.intc
        ∧ t = { s with intc := t.intc, result := .nothing })
      ∧ (s.cfg.wiring.numLines ≤ line → exec (.intcInRequest line level) s = .refused .noSuchLine)

/-- 70_reset_and_hazards.md R223, R234: the reset of the controller alone; it samples no line and touches no peripheral. -/
def Obligations.ControllerResetBaseline : Prop :=
  ∀ s : State,
    exec .intcReset s
      = .next { s with
          intc := { pendingBits := 0#32, mEnableBits := 0#32, sEnableBits := 0#32, mOut := false, sOut := false },
          result := .nothing }

/-! ## System reset -/

/-- 70_reset_and_hazards.md R224, 10_state.md R27: after a system reset everything but the transmit record, the inbox, the call and
the byte drawn for the receive cell (the draw is the MODEL's, assumption log 2) is as at construction. -/
def Obligations.SystemResetBaseline : Prop :=
  ∀ s : State, s.cfg.legal = true →
    ∃ t, exec .sysReset s = .next t
      ∧ t = { State.initial s.cfg with
          uart := { (State.initial s.cfg).uart with rx := Config.uartRxReset s.draws },
          txlog := s.txlog, inbox := s.inbox, call := s.call, draws := t.draws }
      ∧ t.PathClosed

/-- 70_reset_and_hazards.md R224: "The order inside the step does not matter": the three resets in any order end where the system
reset ends. -/
def Obligations.SystemResetIsTheThreeResetsInAnyOrder : Prop :=
  ∀ (s : State) (a b c : Instr), s.cfg.legal = true → [a, b, c].Perm [.uartReset, .timerReset, .intcReset] →
    ∃ t1 t2 t, exec a s = .next t1 ∧ exec b t1 = .next t2 ∧ exec c t2 = .next t ∧ exec .sysReset s = .next t

/-! ## Internal operations -/

/-- 30_encoding.md R60, R64: the operations of the triplet and the underflow are not reachable on their own. A step refuses one
that an agent issues as a stimulus, no stimulus requests one, and no step leaves a call of one pending; so no run from
construction performs one by itself (assumption log 7). -/
def Obligations.InternalOperationsAreNotReachable : Prop :=
  (∀ (s : State) (w : OpWord) (rest : List Stimulus) (i : Instr),
      s.call = none → s.inbox = .operation w :: rest → decode w = .ok i → internal i = true → step s = .refused .wrongCaller)
    ∧ (∀ (w : Wiring) (x : Stimulus) (i : Instr), requestOf w x = .op i → internal i = false)
    ∧ (∀ c : Config, (State.initial c).call = none)
    ∧ ∀ s t : State, step s = .next t → t.call = none
end

