-- ==== Sys2Proof/Laws/Decode.lean ====
section
/-! SUPPORT. The fields of an operation word and the word of the fields are inverse to each other, and what the offset maps give
at an unlisted offset. -/

namespace Sys2Proof

/-- Packing loses no field. -/
theorem unpack_pack (f : OpFields) : unpack (pack f) = f := by
  obtain ⟨sel, wid, inst, lvl, rsv, data, ext⟩ := f
  simp only [unpack, OpFields.mk.injEq]
  refine ⟨?_, ?_, ?_, ?_, ?_, ?_, ?_⟩ <;>
    (apply BitVec.eq_of_getLsbD_eq; intro i hi
     simp only [pack, BitVec.getLsbD_extractLsb', BitVec.getLsbD_or, BitVec.getLsbD_shiftLeft, BitVec.getLsbD_setWidth, hi,
       decide_true, Bool.true_and]
     interval_cases i <;> simp)

/-- A word is the word of its fields: the fields cover all of its bits. -/
theorem pack_unpack (w : OpWord) : pack (unpack w) = w := by
  apply BitVec.eq_of_getLsbD_eq
  intro i hi
  simp only [pack, unpack, BitVec.getLsbD_extractLsb', BitVec.getLsbD_or, BitVec.getLsbD_shiftLeft, BitVec.getLsbD_setWidth, hi,
    decide_true, Bool.true_and]
  interval_cases i <;> simp

@[simp] theorem bareFields_sel (sel : BitVec 10) : (bareFields sel).sel = sel := rfl
@[simp] theorem dataFields_sel (sel : BitVec 10) (v : Word) : (dataFields sel v).sel = sel := rfl
@[simp] theorem writeFields_sel (sel : BitVec 10) (n : Nat) (v : Word) : (writeFields sel n v).sel = sel := rfl
@[simp] theorem readFields_sel (sel : BitVec 10) (n : Nat) : (readFields sel n).sel = sel := rfl
@[simp] theorem erbFields_sel (sel : BitVec 10) (d : Dev) (v : Word) : (erbFields sel d v).sel = sel := rfl

theorem offsetListed_iff (off : Nat) :
    offsetListed off = true ↔ off = 0x00 ∨ off = 0x04 ∨ off = 0x08 ∨ off = 0x0C ∨ off = 0x10 ∨ off = 0x14 ∨ off = 0x18
      ∨ off = 0x1C := by
  simp only [offsetListed, Bool.and_eq_true, decide_eq_true_eq]
  omega

theorem uartReadAt_unlisted {off : Nat} (h : offsetListed off = false) (n : Nat) : uartReadAt off n = .uartRdOther off n := by
  have h' := mt (offsetListed_iff off).mpr (by simp [h])
  unfold uartReadAt
  split <;> first | rfl | (exfalso; omega)

theorem uartWriteAt_unlisted {off : Nat} (h : offsetListed off = false) (n : Nat) (v : Word) :
    uartWriteAt off n v = .uartWrOther off n v := by
  have h' := mt (offsetListed_iff off).mpr (by simp [h])
  unfold uartWriteAt
  split <;> first | rfl | (exfalso; omega)

theorem timerReadAt_unlisted {off : Nat} (h : offsetListed off = false) (n : Nat) :
    timerReadAt off n = .timerRdOther off n := by
  have h' := mt (offsetListed_iff off).mpr (by simp [h])
  unfold timerReadAt
  split <;> first | rfl | (exfalso; omega)

theorem timerWriteAt_unlisted {off : Nat} (h : offsetListed off = false) (n : Nat) (v : Word) :
    timerWriteAt off n v = .timerWrOther off n v := by
  have h' := mt (offsetListed_iff off).mpr (by simp [h])
  unfold timerWriteAt
  split <;> first | rfl | (exfalso; omega)

/-! ### What the decoder answers on the encoder's fields, shape by shape -/

/-- The width an encoded bus access carries. -/
theorem width_of_wid {n : Nat} (hn : widthOk n = true) {f : OpFields} (hf : f.wid = BitVec.ofNat 2 n) : f.width = n := by
  simp only [widthOk, Bool.and_eq_true, decide_eq_true_eq] at hn
  obtain ⟨h1, h2⟩ := hn
  unfold OpFields.width
  rw [hf]
  interval_cases n <;> rfl

theorem decodeBusRead_readFields (mk : Nat → Nat → Instr) (sel : BitVec 10) {n : Nat} (hn : widthOk n = true) :
    decodeBusRead mk (readFields sel n) = .ok (mk (sel.toNat % 64) n) := by
  have hw : (readFields sel n).width = n := width_of_wid hn rfl
  simp [decodeBusRead, whenZero, hw, OpFields.noInput, OpFields.off, OpFields.idx]
  simp [readFields, writeFields, dataFields, bareFields]

theorem decodeBusWrite_writeFields (mk : Nat → Nat → Word → Instr) (sel : BitVec 10) {n : Nat} {v : Word}
    (hn : widthOk n = true) (hv : dataFits n v = true) :
    decodeBusWrite mk (writeFields sel n v) = .ok (mk (sel.toNat % 64) n v) := by
  have hw : (writeFields sel n v).width = n := width_of_wid hn rfl
  have hd : (writeFields sel n v).data = v := rfl
  simp [decodeBusWrite, whenZero, hw, hd, hv, OpFields.noInput, OpFields.off, OpFields.idx]
  simp [writeFields, dataFields, bareFields]

/-- The offset and the unit of an access at an unlisted offset. -/
theorem otherFields_off {base off : Nat} (n : Nat) (v : Word) (ho : offsetOther off = true) (hb : base % 64 = 0)
    (hb2 : base < 1024) :
    (otherFields base off n v).off = off ∧ (otherFields base off n v).sel.toNat / 64 = base / 64 := by
  simp only [offsetOther, Bool.and_eq_true, decide_eq_true_eq] at ho
  simp only [OpFields.off, OpFields.idx, otherFields, writeFields, dataFields, bareFields, BitVec.toNat_ofNat]
  omega

theorem decodeBusRead_otherFields (mk : Nat → Nat → Instr) {base off n : Nat} (ho : offsetOther off = true)
    (hb : base % 64 = 0) (hb2 : base < 1024) (hn : widthOk n = true) :
    decodeBusRead mk (otherFields base off n 0#32) = .ok (mk off n) := by
  have hw : (otherFields base off n 0#32).width = n := width_of_wid hn rfl
  simp [decodeBusRead, whenZero, hw, (otherFields_off n 0#32 ho hb hb2).1]
  exact ⟨rfl, rfl⟩

theorem decodeBusWrite_otherFields (mk : Nat → Nat → Word → Instr) {base off n : Nat} {v : Word}
    (ho : offsetOther off = true) (hb : base % 64 = 0) (hb2 : base < 1024) (hn : widthOk n = true)
    (hv : dataFits n v = true) :
    decodeBusWrite mk (otherFields base off n v) = .ok (mk off n v) := by
  have hw : (otherFields base off n v).width = n := width_of_wid hn rfl
  have hd : (otherFields base off n v).data = v := rfl
  simp [decodeBusWrite, whenZero, hw, hd, hv, (otherFields_off n v ho hb hb2).1]
  rfl

end Sys2Proof
end

