-- ==== Sys2Proof/Laws/Flags.lean ====
section
/-! SUPPORT. What each triplet operation can do: the fields it writes in each mode, the fields it keeps, and that it stays inside
`EV_MASK`. -/

namespace Sys2Proof.Machine

@[simp] theorem blockConfig_uart_mode (c : Config) : (blockConfig c .uart).mode = c.uartMode := rfl
@[simp] theorem blockConfig_uart_evMask (c : Config) : (blockConfig c .uart).evMask = 0x3#32 := rfl
@[simp] theorem blockConfig_uart_clearRelatch (c : Config) : (blockConfig c .uart).clearRelatch = true := rfl
@[simp] theorem blockConfig_uart_relatch (c : Config) : (blockConfig c .uart).relatch = c.enableRelatch := rfl
@[simp] theorem blockConfig_timer_mode (c : Config) : (blockConfig c .timer).mode = .A := rfl
@[simp] theorem blockConfig_timer_evMask (c : Config) : (blockConfig c .timer).evMask = 0x1#32 := rfl
@[simp] theorem blockConfig_timer_clearRelatch (c : Config) : (blockConfig c .timer).clearRelatch = false := rfl

@[simp] theorem relatchCandidates_newly (ne en : Word) : relatchCandidates .newlyEnabled ne en = ne &&& ~~~en := rfl
@[simp] theorem relatchCandidates_all (ne en : Word) : relatchCandidates .allEnabled ne en = ne := rfl

/-- The Boolean test for a non-zero word is the decision of the proposition. -/
theorem bne_zero_eq_decide (w : Word) : (w != 0#32) = decide (w ≠ 0#32) := by
  by_cases h : w = 0#32 <;> simp [h]

/-- `irq_level` is the law of 40_event_register_block.md R89. -/
theorem irqLevel_eq_lineLevel (c : BlockConfig) (e : EventBlock) : e.irqLevel c = lineLevel c.mode e := by
  unfold EventBlock.irqLevel lineLevel
  cases c.mode <;> simp only [bne_zero_eq_decide] <;> rfl

@[simp] theorem setEnable_status (c : BlockConfig) (m : Word) (e : EventBlock) : (e.setEnable c m).status = e.status := by
  unfold EventBlock.setEnable; cases c.mode <;> rfl
@[simp] theorem setEnable_enable (c : BlockConfig) (m : Word) (e : EventBlock) :
    (e.setEnable c m).enable = m &&& c.evMask := by
  unfold EventBlock.setEnable; cases c.mode <;> rfl
theorem setEnable_pending_A (c : BlockConfig) (h : c.mode = .A) (m : Word) (e : EventBlock) :
    (e.setEnable c m).pending = e.pending := by
  unfold EventBlock.setEnable; rw [h]
theorem setEnable_pending_B (c : BlockConfig) (h : c.mode = .B) (m : Word) (e : EventBlock) :
    (e.setEnable c m).pending
      = (e.pending ||| (relatchCandidates c.relatch (m &&& c.evMask) e.enable &&& e.status)) &&& (m &&& c.evMask) := by
  unfold EventBlock.setEnable; rw [h]

@[simp] theorem clearPending_status (c : BlockConfig) (m : Word) (e : EventBlock) : (e.clearPending c m).status = e.status := by
  unfold EventBlock.clearPending; split <;> rfl
@[simp] theorem clearPending_enable (c : BlockConfig) (m : Word) (e : EventBlock) : (e.clearPending c m).enable = e.enable := by
  unfold EventBlock.clearPending; split <;> rfl
theorem clearPending_pending_relatch (c : BlockConfig) (h : c.mode = .A) (hr : c.clearRelatch = true) (m : Word)
    (e : EventBlock) : (e.clearPending c m).pending = e.pending &&& ~~~(m &&& ~~~(m &&& e.enable &&& e.status)) := by
  unfold EventBlock.clearPending; rw [h, hr]
theorem clearPending_pending_plain (c : BlockConfig) (h : c.mode = .B ∨ c.clearRelatch = false) (m : Word)
    (e : EventBlock) : (e.clearPending c m).pending = e.pending &&& ~~~m := by
  unfold EventBlock.clearPending
  rcases h with h | h <;> rw [h]
  split <;> simp_all

@[simp] theorem signalEvent_status (c : BlockConfig) (b : Word) (e : EventBlock) :
    (e.signalEvent c b).status = e.status ||| b := by
  unfold EventBlock.signalEvent; cases c.mode <;> rfl
@[simp] theorem signalEvent_enable (c : BlockConfig) (b : Word) (e : EventBlock) : (e.signalEvent c b).enable = e.enable := by
  unfold EventBlock.signalEvent; cases c.mode <;> rfl
theorem signalEvent_pending_A (c : BlockConfig) (h : c.mode = .A) (b : Word) (e : EventBlock) :
    (e.signalEvent c b).pending = e.pending ||| b := by
  unfold EventBlock.signalEvent; rw [h]
theorem signalEvent_pending_B (c : BlockConfig) (h : c.mode = .B) (b : Word) (e : EventBlock) :
    (e.signalEvent c b).pending = e.pending ||| (e.enable &&& b) := by
  unfold EventBlock.signalEvent; rw [h]

@[simp] theorem clearStatus_status (b : Word) (e : EventBlock) : (e.clearStatus b).status = e.status &&& ~~~b := rfl
@[simp] theorem clearStatus_pending (b : Word) (e : EventBlock) : (e.clearStatus b).pending = e.pending := rfl
@[simp] theorem clearStatus_enable (b : Word) (e : EventBlock) : (e.clearStatus b).enable = e.enable := rfl

/-! ### Bit tests -/

/-- Testing bit 0 by its mask. -/
theorem and_one_bne (w : Word) : (w &&& 1#32 != 0#32) = w.getLsbD 0 := by
  rw [Bool.eq_iff_iff, bne_iff_ne]
  constructor
  · intro h
    by_contra h0
    refine h (BitVec.eq_of_getLsbD_eq fun i hi => ?_)
    by_cases hi0 : i = 0
    · subst hi0; simpa using h0
    · simp [BitVec.getLsbD_one, hi0]
  · intro h h0
    have hb := congrArg (·.getLsbD 0) h0
    simp only [BitVec.getLsbD_and, h] at hb
    exact absurd hb (by decide)

/-- Testing bit 1 by its mask. -/
theorem and_two_bne (w : Word) : (w &&& 2#32 != 0#32) = w.getLsbD 1 := by
  rw [show (2#32 : Word) = BitVec.twoPow 32 1 from rfl, Bool.eq_iff_iff, bne_iff_ne]
  constructor
  · intro h
    by_contra h0
    refine h (BitVec.eq_of_getLsbD_eq fun i hi => ?_)
    by_cases hi1 : i = 1
    · subst hi1; simpa using h0
    · simp [BitVec.getLsbD_twoPow, Ne.symm hi1]
  · intro h h0
    have hb := congrArg (·.getLsbD 1) h0
    simp only [BitVec.getLsbD_and, h] at hb
    exact absurd hb (by decide)

/-! ### The derived flag registers -/

@[simp] theorem txFull_eq (e : EventBlock) : e.txFull = !e.status.getLsbD 0 := by
  rw [← and_one_bne, bne, Bool.not_not]; rfl
@[simp] theorem txEmpty_eq (e : EventBlock) : e.txEmpty = e.status.getLsbD 0 := and_one_bne e.status
@[simp] theorem rxFull_eq (e : EventBlock) : e.rxFull = e.status.getLsbD 1 := and_two_bne e.status
@[simp] theorem rxEmpty_eq (e : EventBlock) : e.rxEmpty = !e.pending.getLsbD 1 := by
  rw [← and_two_bne, bne, Bool.not_not]; rfl
@[simp] theorem canAcceptByte_eq (e : EventBlock) : e.canAcceptByte = !e.status.getLsbD 1 := by
  rw [← and_two_bne, bne, Bool.not_not]; rfl

/-! ### The triplet operations of each device, in one record -/

theorem signalEvent_uart (c : Config) (b : Word) (e : EventBlock) :
    e.signalEvent (blockConfig c .uart) b
      = { e with status := e.status ||| b, pending := e.pending ||| (if c.uartMode = .A then b else e.enable &&& b) } := by
  unfold EventBlock.signalEvent
  rw [blockConfig_uart_mode]
  cases c.uartMode <;> rfl

theorem clearPending_uart (c : Config) (m : Word) (e : EventBlock) :
    e.clearPending (blockConfig c .uart) m
      = { e with pending :=
            if c.uartMode = .A then e.pending &&& ~~~(m &&& ~~~(m &&& e.enable &&& e.status)) else e.pending &&& ~~~m } := by
  unfold EventBlock.clearPending
  rw [blockConfig_uart_mode, blockConfig_uart_clearRelatch]
  cases c.uartMode <;> rfl

theorem setEnable_uart (c : Config) (m : Word) (e : EventBlock) :
    e.setEnable (blockConfig c .uart) m
      = { e with
          enable := m &&& 0x3#32,
          pending :=
            if c.uartMode = .A then e.pending
            else (e.pending ||| (relatchCandidates c.enableRelatch (m &&& 0x3#32) e.enable &&& e.status)) &&& (m &&& 0x3#32) } := by
  unfold EventBlock.setEnable
  rw [blockConfig_uart_mode]
  cases c.uartMode <;> rfl

@[simp] theorem signalEvent_timer (c : Config) (b : Word) (e : EventBlock) :
    e.signalEvent (blockConfig c .timer) b = { e with status := e.status ||| b, pending := e.pending ||| b } := rfl
@[simp] theorem clearPending_timer (c : Config) (m : Word) (e : EventBlock) :
    e.clearPending (blockConfig c .timer) m = { e with pending := e.pending &&& ~~~m } := rfl
@[simp] theorem setEnable_timer (c : Config) (m : Word) (e : EventBlock) :
    e.setEnable (blockConfig c .timer) m = { e with enable := m &&& 0x1#32 } := rfl

end Sys2Proof.Machine
end

