-- ==== Sys2Proof/Laws/Operands.lean ====
section
/-! SUPPORT. What the operand operations compute. -/

namespace Sys2Proof.Machine

/-- The low n bytes, as a number. -/
theorem lowBytes_toNat (n : Nat) (r : Word) : (lowBytes n r).toNat = r.toNat % 2 ^ (8 * n) := by
  unfold lowBytes
  simp only [BitVec.toNat_setWidth]
  exact Nat.mod_eq_of_lt (lt_of_le_of_lt (Nat.mod_le _ _) r.isLt)

/-- A bus read returns the value 20_memory.md R41 cuts out. -/
theorem readBytes_eq (n : Nat) (r : Word) : Result.word (lowBytes n r) = readBytes n r := by
  unfold readBytes
  congr 1
  apply BitVec.eq_of_toNat_eq
  rw [lowBytes_toNat, BitVec.toNat_ofNat]
  exact (Nat.mod_eq_of_lt (lt_of_le_of_lt (Nat.mod_le _ _) r.isLt)).symm

/-- An n-byte value is its own low n bytes. -/
theorem lowBytes_of_lt {n : Nat} {v : Word} (h : v.toNat < 2 ^ (8 * n)) : lowBytes n v = v := by
  apply BitVec.eq_of_toNat_eq
  rw [lowBytes_toNat, Nat.mod_eq_of_lt h]

theorem lowBytes_dataFits (n : Nat) (v : Word) : dataFits n (lowBytes n v) = true := by
  simp only [dataFits, decide_eq_true_eq, lowBytes_toNat]
  exact Nat.mod_lt _ (by positivity)

theorem widthOk_iff (n : Nat) : widthOk n = true ↔ 1 ≤ n ∧ n ≤ 4 := by
  simp [widthOk]

theorem hasLine_iff (w : Wiring) (line : Nat) : hasLine w line = true ↔ line < w.numLines := by
  simp only [hasLine, bne_iff_ne, ne_eq]
  omega

/-- The window a bus address of the UART lies in. -/
theorem locate_uart {w : Wiring} {off : Nat} (h : off < w.windowSize) : locate w (w.uartBase + off) = some (.uart, off) := by
  unfold locate
  rw [if_pos (by omega)]
  simp

/-- The window a bus address of the timer lies in: in a legal wiring the windows do not overlap. -/
theorem locate_timer {w : Wiring} {off : Nat} (hw : w.legal = true) (h : off < w.windowSize) :
    locate w (w.timerBase + off) = some (.timer, off) := by
  simp only [Wiring.legal, Bool.and_eq_true, decide_eq_true_eq] at hw
  unfold locate
  rw [if_neg (by omega), if_pos (by omega)]
  simp

theorem regReadAt_external (d : Dev) (off n : Nat) : internal (regReadAt d off n) = false := by
  cases d <;> simp only [regReadAt, uartReadAt, timerReadAt] <;> split <;> rfl

theorem regWriteAt_external (d : Dev) (off n : Nat) (v : Word) : internal (regWriteAt d off n v) = false := by
  cases d <;> simp only [regWriteAt, uartWriteAt, timerWriteAt] <;> split <;> first | rfl | (split <;> rfl)

/-- No stimulus requests an internal operation (30_encoding.md R60, R64). -/
theorem requestOf_op {w : Wiring} {x : Stimulus} {i : Instr} (h : requestOf w x = .op i) : internal i = false := by
  cases x <;> simp only [requestOf] at h <;> split at h
  · split at h
    · cases h
    · cases h; exact Bool.eq_false_of_not_eq_true ‹_›
  · cases h
  · cases h; exact regReadAt_external _ _ _
  · cases h
  · cases h; exact regWriteAt_external _ _ _ _
  · cases h
  · cases h
  · cases h
  · rename_i p _; cases p <;> cases h <;> rfl
  · cases h
  · rename_i p _; cases p <;> cases h <;> rfl
  · cases h

/-- Everything a call can request: an internal operation, or nothing that has a meaning. -/
theorem callOf_cases (x : OpWord) :
    (∃ i, decode x = .ok i ∧ internal i = true ∧ callOf x = .op i) ∨ ∃ r, callOf x = .refuse r := by
  unfold callOf
  split
  · split
    · exact .inl ⟨_, ‹_›, ‹_›, rfl⟩
    · exact .inr ⟨_, rfl⟩
  · exact .inr ⟨_, rfl⟩

theorem zextByte_eq (b : Byte) : zextByte b = BitVec.ofNat 32 b.toNat := by
  apply BitVec.eq_of_toNat_eq
  simp [zextByte]

theorem sentByte_eq (v : Word) : sentByte v = v.setWidth 8 := by
  apply BitVec.eq_of_toNat_eq
  simp [sentByte]

end Sys2Proof.Machine
end

