-- ==== Sys2Proof/Laws/State.lean ====
section
/-! SUPPORT. One lemma per field per update of the state. -/

namespace Sys2Proof.Machine

/-! ### setUart -/

@[simp] theorem State.setUart_cfg (u : Uart) (s : State) : (s.setUart u).cfg = s.cfg := rfl
@[simp] theorem State.setUart_uart (u : Uart) (s : State) : (s.setUart u).uart = u := rfl
@[simp] theorem State.setUart_timer (u : Uart) (s : State) : (s.setUart u).timer = s.timer := rfl
@[simp] theorem State.setUart_intc (u : Uart) (s : State) : (s.setUart u).intc = s.intc := rfl
@[simp] theorem State.setUart_txlog (u : Uart) (s : State) : (s.setUart u).txlog = s.txlog := rfl
@[simp] theorem State.setUart_result (u : Uart) (s : State) : (s.setUart u).result = s.result := rfl
@[simp] theorem State.setUart_inbox (u : Uart) (s : State) : (s.setUart u).inbox = s.inbox := rfl
@[simp] theorem State.setUart_call (u : Uart) (s : State) : (s.setUart u).call = s.call := rfl
@[simp] theorem State.setUart_draws (u : Uart) (s : State) : (s.setUart u).draws = s.draws := rfl

/-! ### setTimer -/

@[simp] theorem State.setTimer_cfg (t : Timer) (s : State) : (s.setTimer t).cfg = s.cfg := rfl
@[simp] theorem State.setTimer_uart (t : Timer) (s : State) : (s.setTimer t).uart = s.uart := rfl
@[simp] theorem State.setTimer_timer (t : Timer) (s : State) : (s.setTimer t).timer = t := rfl
@[simp] theorem State.setTimer_intc (t : Timer) (s : State) : (s.setTimer t).intc = s.intc := rfl
@[simp] theorem State.setTimer_txlog (t : Timer) (s : State) : (s.setTimer t).txlog = s.txlog := rfl
@[simp] theorem State.setTimer_result (t : Timer) (s : State) : (s.setTimer t).result = s.result := rfl
@[simp] theorem State.setTimer_inbox (t : Timer) (s : State) : (s.setTimer t).inbox = s.inbox := rfl
@[simp] theorem State.setTimer_call (t : Timer) (s : State) : (s.setTimer t).call = s.call := rfl
@[simp] theorem State.setTimer_draws (t : Timer) (s : State) : (s.setTimer t).draws = s.draws := rfl

/-! ### setIntc -/

@[simp] theorem State.setIntc_cfg (c : Intc) (s : State) : (s.setIntc c).cfg = s.cfg := rfl
@[simp] theorem State.setIntc_uart (c : Intc) (s : State) : (s.setIntc c).uart = s.uart := rfl
@[simp] theorem State.setIntc_timer (c : Intc) (s : State) : (s.setIntc c).timer = s.timer := rfl
@[simp] theorem State.setIntc_intc (c : Intc) (s : State) : (s.setIntc c).intc = c := rfl
@[simp] theorem State.setIntc_txlog (c : Intc) (s : State) : (s.setIntc c).txlog = s.txlog := rfl
@[simp] theorem State.setIntc_result (c : Intc) (s : State) : (s.setIntc c).result = s.result := rfl
@[simp] theorem State.setIntc_inbox (c : Intc) (s : State) : (s.setIntc c).inbox = s.inbox := rfl
@[simp] theorem State.setIntc_call (c : Intc) (s : State) : (s.setIntc c).call = s.call := rfl
@[simp] theorem State.setIntc_draws (c : Intc) (s : State) : (s.setIntc c).draws = s.draws := rfl

/-! ### setResult -/

@[simp] theorem State.setResult_cfg (r : Result) (s : State) : (s.setResult r).cfg = s.cfg := rfl
@[simp] theorem State.setResult_uart (r : Result) (s : State) : (s.setResult r).uart = s.uart := rfl
@[simp] theorem State.setResult_timer (r : Result) (s : State) : (s.setResult r).timer = s.timer := rfl
@[simp] theorem State.setResult_intc (r : Result) (s : State) : (s.setResult r).intc = s.intc := rfl
@[simp] theorem State.setResult_txlog (r : Result) (s : State) : (s.setResult r).txlog = s.txlog := rfl
@[simp] theorem State.setResult_result (r : Result) (s : State) : (s.setResult r).result = r := rfl
@[simp] theorem State.setResult_inbox (r : Result) (s : State) : (s.setResult r).inbox = s.inbox := rfl
@[simp] theorem State.setResult_call (r : Result) (s : State) : (s.setResult r).call = s.call := rfl
@[simp] theorem State.setResult_draws (r : Result) (s : State) : (s.setResult r).draws = s.draws := rfl

/-! ### send -/

@[simp] theorem State.send_cfg (b : Byte) (s : State) : (s.send b).cfg = s.cfg := rfl
@[simp] theorem State.send_uart (b : Byte) (s : State) : (s.send b).uart = s.uart := rfl
@[simp] theorem State.send_timer (b : Byte) (s : State) : (s.send b).timer = s.timer := rfl
@[simp] theorem State.send_intc (b : Byte) (s : State) : (s.send b).intc = s.intc := rfl
@[simp] theorem State.send_txlog (b : Byte) (s : State) : (s.send b).txlog = s.txlog ++ [b] := rfl
@[simp] theorem State.send_result (b : Byte) (s : State) : (s.send b).result = s.result := rfl
@[simp] theorem State.send_inbox (b : Byte) (s : State) : (s.send b).inbox = s.inbox := rfl
@[simp] theorem State.send_call (b : Byte) (s : State) : (s.send b).call = s.call := rfl
@[simp] theorem State.send_draws (b : Byte) (s : State) : (s.send b).draws = s.draws := rfl

/-! ### countDraw -/

@[simp] theorem State.countDraw_cfg (s : State) : (s.countDraw).cfg = s.cfg := rfl
@[simp] theorem State.countDraw_uart (s : State) : (s.countDraw).uart = s.uart := rfl
@[simp] theorem State.countDraw_timer (s : State) : (s.countDraw).timer = s.timer := rfl
@[simp] theorem State.countDraw_intc (s : State) : (s.countDraw).intc = s.intc := rfl
@[simp] theorem State.countDraw_txlog (s : State) : (s.countDraw).txlog = s.txlog := rfl
@[simp] theorem State.countDraw_result (s : State) : (s.countDraw).result = s.result := rfl
@[simp] theorem State.countDraw_inbox (s : State) : (s.countDraw).inbox = s.inbox := rfl
@[simp] theorem State.countDraw_call (s : State) : (s.countDraw).call = s.call := rfl
@[simp] theorem State.countDraw_draws (s : State) : (s.countDraw).draws = s.draws + 1 := rfl

/-! ### setInbox -/

@[simp] theorem State.setInbox_cfg (rest : List Stimulus) (s : State) : (s.setInbox rest).cfg = s.cfg := rfl
@[simp] theorem State.setInbox_uart (rest : List Stimulus) (s : State) : (s.setInbox rest).uart = s.uart := rfl
@[simp] theorem State.setInbox_timer (rest : List Stimulus) (s : State) : (s.setInbox rest).timer = s.timer := rfl
@[simp] theorem State.setInbox_intc (rest : List Stimulus) (s : State) : (s.setInbox rest).intc = s.intc := rfl
@[simp] theorem State.setInbox_txlog (rest : List Stimulus) (s : State) : (s.setInbox rest).txlog = s.txlog := rfl
@[simp] theorem State.setInbox_result (rest : List Stimulus) (s : State) : (s.setInbox rest).result = s.result := rfl
@[simp] theorem State.setInbox_inbox (rest : List Stimulus) (s : State) : (s.setInbox rest).inbox = rest := rfl
@[simp] theorem State.setInbox_call (rest : List Stimulus) (s : State) : (s.setInbox rest).call = s.call := rfl
@[simp] theorem State.setInbox_draws (rest : List Stimulus) (s : State) : (s.setInbox rest).draws = s.draws := rfl

/-! ### setCall -/

@[simp] theorem State.setCall_cfg (c : Option OpWord) (s : State) : (s.setCall c).cfg = s.cfg := rfl
@[simp] theorem State.setCall_uart (c : Option OpWord) (s : State) : (s.setCall c).uart = s.uart := rfl
@[simp] theorem State.setCall_timer (c : Option OpWord) (s : State) : (s.setCall c).timer = s.timer := rfl
@[simp] theorem State.setCall_intc (c : Option OpWord) (s : State) : (s.setCall c).intc = s.intc := rfl
@[simp] theorem State.setCall_txlog (c : Option OpWord) (s : State) : (s.setCall c).txlog = s.txlog := rfl
@[simp] theorem State.setCall_result (c : Option OpWord) (s : State) : (s.setCall c).result = s.result := rfl
@[simp] theorem State.setCall_inbox (c : Option OpWord) (s : State) : (s.setCall c).inbox = s.inbox := rfl
@[simp] theorem State.setCall_call (c : Option OpWord) (s : State) : (s.setCall c).call = c := rfl
@[simp] theorem State.setCall_draws (c : Option OpWord) (s : State) : (s.setCall c).draws = s.draws := rfl

/-- Clearing a call that is not pending changes nothing. -/
theorem State.setCall_none_self {s : State} (h : s.call = none) : s.setCall none = s := by
  cases s; cases h; rfl

/-! ### setBlock -/

@[simp] theorem State.setBlock_cfg (d : Dev) (e : EventBlock) (s : State) : (s.setBlock d e).cfg = s.cfg := by cases d <;> rfl
@[simp] theorem State.setBlock_intc (d : Dev) (e : EventBlock) (s : State) : (s.setBlock d e).intc = s.intc := by cases d <;> rfl
@[simp] theorem State.setBlock_txlog (d : Dev) (e : EventBlock) (s : State) : (s.setBlock d e).txlog = s.txlog := by cases d <;> rfl
@[simp] theorem State.setBlock_result (d : Dev) (e : EventBlock) (s : State) : (s.setBlock d e).result = s.result := by cases d <;> rfl
@[simp] theorem State.setBlock_inbox (d : Dev) (e : EventBlock) (s : State) : (s.setBlock d e).inbox = s.inbox := by cases d <;> rfl
@[simp] theorem State.setBlock_call (d : Dev) (e : EventBlock) (s : State) : (s.setBlock d e).call = s.call := by cases d <;> rfl
@[simp] theorem State.setBlock_draws (d : Dev) (e : EventBlock) (s : State) : (s.setBlock d e).draws = s.draws := by cases d <;> rfl
@[simp] theorem State.setBlock_uart_self (e : EventBlock) (s : State) :
    (s.setBlock .uart e).uart = { s.uart with block := e } := rfl
@[simp] theorem State.setBlock_uart_other (e : EventBlock) (s : State) : (s.setBlock .timer e).uart = s.uart := rfl
@[simp] theorem State.setBlock_timer_self (e : EventBlock) (s : State) :
    (s.setBlock .timer e).timer = { s.timer with block := e } := rfl
@[simp] theorem State.setBlock_timer_other (e : EventBlock) (s : State) : (s.setBlock .uart e).timer = s.timer := rfl

/-! ### setIrqOut -/

@[simp] theorem State.setIrqOut_cfg (d : Dev) (l : Bool) (s : State) : (s.setIrqOut d l).cfg = s.cfg := by cases d <;> rfl
@[simp] theorem State.setIrqOut_intc (d : Dev) (l : Bool) (s : State) : (s.setIrqOut d l).intc = s.intc := by cases d <;> rfl
@[simp] theorem State.setIrqOut_txlog (d : Dev) (l : Bool) (s : State) : (s.setIrqOut d l).txlog = s.txlog := by cases d <;> rfl
@[simp] theorem State.setIrqOut_result (d : Dev) (l : Bool) (s : State) : (s.setIrqOut d l).result = s.result := by cases d <;> rfl
@[simp] theorem State.setIrqOut_inbox (d : Dev) (l : Bool) (s : State) : (s.setIrqOut d l).inbox = s.inbox := by cases d <;> rfl
@[simp] theorem State.setIrqOut_call (d : Dev) (l : Bool) (s : State) : (s.setIrqOut d l).call = s.call := by cases d <;> rfl
@[simp] theorem State.setIrqOut_draws (d : Dev) (l : Bool) (s : State) : (s.setIrqOut d l).draws = s.draws := by cases d <;> rfl
@[simp] theorem State.setIrqOut_uart_self (l : Bool) (s : State) :
    (s.setIrqOut .uart l).uart = { s.uart with irqOut := l } := rfl
@[simp] theorem State.setIrqOut_uart_other (l : Bool) (s : State) : (s.setIrqOut .timer l).uart = s.uart := rfl
@[simp] theorem State.setIrqOut_timer_self (l : Bool) (s : State) :
    (s.setIrqOut .timer l).timer = { s.timer with irqOut := l } := rfl
@[simp] theorem State.setIrqOut_timer_other (l : Bool) (s : State) : (s.setIrqOut .uart l).timer = s.timer := rfl

/-! ### The triplet of a device -/

@[simp] theorem State.block_uart (s : State) : s.block .uart = s.uart.block := rfl
@[simp] theorem State.block_timer (s : State) : s.block .timer = s.timer.block := rfl
@[simp] theorem State.block_setBlock (d : Dev) (e : EventBlock) (s : State) : (s.setBlock d e).block d = e := by
  cases d <;> rfl
@[simp] theorem State.block_setIrqOut (d d' : Dev) (l : Bool) (s : State) : (s.setIrqOut d l).block d' = s.block d' := by
  cases d <;> cases d' <;> rfl
@[simp] theorem State.block_setIntc (d : Dev) (c : Intc) (s : State) : (s.setIntc c).block d = s.block d := by
  cases d <;> rfl
@[simp] theorem State.block_setResult (d : Dev) (r : Result) (s : State) : (s.setResult r).block d = s.block d := by
  cases d <;> rfl
@[simp] theorem State.block_send (d : Dev) (b : Byte) (s : State) : (s.send b).block d = s.block d := by
  cases d <;> rfl
@[simp] theorem State.blockCfg_eq (d : Dev) (s : State) : s.blockCfg d = blockConfig s.cfg d := rfl

end Sys2Proof.Machine
end

