-- ==== Sys2Proof/Laws/Ops.lean ====
section
/-! SUPPORT. What each shared operation can do, said once: the interrupt path, the triplet operations of a device, the countdown
engine, the resets, and the outcomes of a bus access. -/

namespace Sys2Proof.Machine

/-! ## Outcomes -/

@[simp] theorem complete_eq (r : Result) (s : State) : complete r s = .next (s.setResult r) := rfl

theorem complete_next {r : Result} {s t : State} (h : complete r s = .next t) : t = s.setResult r := by
  simpa [complete] using h.symm

theorem busRead_ok {n : Nat} (hn : widthOk n = true) (r : Word) (s : State) :
    busRead n r s = .next (s.setResult (readBytes n r)) := by
  unfold busRead
  rw [if_pos hn, readBytes_eq]
  rfl

theorem busWrite_ok {n : Nat} (hn : widthOk n = true) (s : State) : busWrite n s = .next (s.setResult .nothing) := by
  unfold busWrite
  rw [if_pos hn]
  rfl

/-- If a bus read answers a next state, the width was legal and the state is the one given, with the value cut to the width. -/
theorem busRead_next {n : Nat} {r : Word} {s t : State} (h : busRead n r s = .next t) :
    widthOk n = true ∧ t = s.setResult (readBytes n r) := by
  unfold busRead at h
  split at h
  · exact ⟨‹_›, by rw [← readBytes_eq]; exact complete_next h⟩
  · cases h

/-- If a bus write answers a next state, the width was legal and the state is the one given. -/
theorem busWrite_next {n : Nat} {s t : State} (h : busWrite n s = .next t) :
    widthOk n = true ∧ t = s.setResult .nothing := by
  unfold busWrite at h
  split at h
  · exact ⟨‹_›, complete_next h⟩
  · cases h

theorem completeOr_next {x : Except Refusal State} {t : State} (h : completeOr x = .next t) :
    ∃ s, x = .ok s ∧ t = s.setResult .nothing := by
  unfold completeOr at h
  split at h
  · exact ⟨_, rfl, complete_next h⟩
  · cases h

/-! ## The controller -/

@[simp] theorem recompute_pendingBits (c : Intc) : c.recompute.pendingBits = c.pendingBits := rfl
@[simp] theorem recompute_mEnableBits (c : Intc) : c.recompute.mEnableBits = c.mEnableBits := rfl
@[simp] theorem recompute_sEnableBits (c : Intc) : c.recompute.sEnableBits = c.sEnableBits := rfl

/-- After `recompute` the outputs follow the masks (43_interrupt_controller.md R175). -/
theorem recompute_outputs (c : Intc) : c.recompute.OutputsFollowMasks := by
  constructor <;> exact bne_zero_eq_decide _

@[simp] theorem setLine_mEnableBits (i : Nat) (l : Bool) (c : Intc) : (c.setLine i l).mEnableBits = c.mEnableBits := rfl
@[simp] theorem setLine_sEnableBits (i : Nat) (l : Bool) (c : Intc) : (c.setLine i l).sEnableBits = c.sEnableBits := rfl

/-- The pending bits after one line took a level. -/
theorem setLine_getLsbD (i : Nat) (l : Bool) (c : Intc) (k : Nat) (hk : k < 32) :
    (c.setLine i l).pendingBits.getLsbD k = if k = i then l else c.pendingBits.getLsbD k := by
  have hone : (1#32 <<< i).getLsbD k = decide (k = i) := by
    simp only [BitVec.getLsbD_shiftLeft, hk, decide_true, Bool.true_and, BitVec.getLsbD_one]
    by_cases h : k = i
    · subst h; simp
    · simp only [h, decide_false]
      by_cases h2 : k < i
      · simp [h2]
      · have : k - i ≠ 0 := by omega
        simp [this]
  cases l
  · simp only [Intc.setLine, recompute_pendingBits, Bool.false_eq_true, if_false, BitVec.getLsbD_and, BitVec.getLsbD_not, hone, hk]
    by_cases h : k = i <;> simp [h]
  · simp only [Intc.setLine, recompute_pendingBits, if_true, BitVec.getLsbD_or, hone]
    by_cases h : k = i <;> simp [h]

/-- Driving one line, over its end points (43_interrupt_controller.md R170, R175). -/
theorem setLine_driven (i : Nat) (l : Bool) (c : Intc) : LineDriven i l c (c.setLine i l) :=
  ⟨fun k hk => setLine_getLsbD i l c k hk, rfl, rfl, recompute_outputs _⟩

/-- Driving an existing line of a controller that has no bit at or above NUM_LINES sets none. -/
theorem setLine_lt {i n : Nat} {l : Bool} {c : Intc} (hi : i < n) (hc : c.pendingBits.toNat < 2 ^ n) :
    (c.setLine i l).pendingBits.toNat < 2 ^ n := by
  cases l
  · simp only [Intc.setLine, recompute_pendingBits, Bool.false_eq_true, if_false, BitVec.toNat_and]
    exact lt_of_le_of_lt Nat.and_le_left hc
  · simp only [Intc.setLine, recompute_pendingBits, if_true, BitVec.toNat_or]
    refine Nat.or_lt_two_pow hc ?_
    rw [BitVec.toNat_shiftLeft]
    refine lt_of_le_of_lt (Nat.mod_le _ _) ?_
    rw [Nat.shiftLeft_eq]
    simpa using Nat.pow_lt_pow_right (by norm_num) hi

/-! ## The interrupt path -/

@[simp] theorem State.irqLevel_eq (s : State) (d : Dev) : s.irqLevel d = (s.block d).irqLevel (blockConfig s.cfg d) := rfl
@[simp] theorem driveIrq_cfg (d : Dev) (s : State) : (driveIrq d s).cfg = s.cfg := by cases d <;> rfl
@[simp] theorem driveIrq_txlog (d : Dev) (s : State) : (driveIrq d s).txlog = s.txlog := by cases d <;> rfl
@[simp] theorem driveIrq_result (d : Dev) (s : State) : (driveIrq d s).result = s.result := by cases d <;> rfl
@[simp] theorem driveIrq_inbox (d : Dev) (s : State) : (driveIrq d s).inbox = s.inbox := by cases d <;> rfl
@[simp] theorem driveIrq_call (d : Dev) (s : State) : (driveIrq d s).call = s.call := by cases d <;> rfl
@[simp] theorem driveIrq_draws (d : Dev) (s : State) : (driveIrq d s).draws = s.draws := by cases d <;> rfl
@[simp] theorem driveIrq_uart_self (s : State) :
    (driveIrq .uart s).uart = { s.uart with irqOut := s.uart.block.irqLevel (blockConfig s.cfg .uart) } := rfl
@[simp] theorem driveIrq_uart_other (s : State) : (driveIrq .timer s).uart = s.uart := rfl
@[simp] theorem driveIrq_timer_self (s : State) :
    (driveIrq .timer s).timer = { s.timer with irqOut := s.timer.block.irqLevel (blockConfig s.cfg .timer) } := rfl
@[simp] theorem driveIrq_timer_other (s : State) : (driveIrq .uart s).timer = s.timer := rfl
@[simp] theorem driveIrq_intc (d : Dev) (s : State) :
    (driveIrq d s).intc = s.intc.setLine (irqLine s.cfg.wiring d) ((s.block d).irqLevel (blockConfig s.cfg d)) := by
  cases d <;> rfl

/-- `drive_irq(UART)` over its end points (60_exceptions.md R192). -/
theorem driveIrq_uart_driven (s : State) :
    (driveIrq .uart s).uart = { s.uart with irqOut := lineLevel s.cfg.uartMode s.uart.block }
      ∧ LineDriven s.cfg.wiring.uartIrqLine (lineLevel s.cfg.uartMode s.uart.block) s.intc (driveIrq .uart s).intc := by
  have h := irqLevel_eq_lineLevel (blockConfig s.cfg .uart) s.uart.block
  rw [blockConfig_uart_mode] at h
  refine ⟨by rw [driveIrq_uart_self, h], ?_⟩
  rw [driveIrq_intc, State.block_uart, h]
  exact setLine_driven _ _ _

/-- `drive_irq(TIMER)` over its end points (60_exceptions.md R192). -/
theorem driveIrq_timer_driven (s : State) :
    (driveIrq .timer s).timer = { s.timer with irqOut := lineLevel .A s.timer.block }
      ∧ LineDriven s.cfg.wiring.timerIrqLine (lineLevel .A s.timer.block) s.intc (driveIrq .timer s).intc := by
  have h := irqLevel_eq_lineLevel (blockConfig s.cfg .timer) s.timer.block
  rw [blockConfig_timer_mode] at h
  refine ⟨by rw [driveIrq_timer_self, h], ?_⟩
  rw [driveIrq_intc, State.block_timer, h]
  exact setLine_driven _ _ _

/-- A triplet operation of the UART over its end points: the triplet becomes `e`, and the line is driven with its level. -/
theorem uartDriven_driveIrq (e : EventBlock) (s : State) :
    UartDriven e s ((driveIrq .uart (s.setBlock .uart e)).setResult .nothing) := by
  obtain ⟨hu, hi⟩ := driveIrq_uart_driven (s.setBlock .uart e)
  refine ⟨by simp, ?_, ?_, by simp, by simp, by simp, by simp, by simp⟩
  · rw [State.setResult_uart, hu]; rfl
  · rw [State.setResult_intc]; exact hi

/-- A triplet operation of the timer over its end points. -/
theorem timerDriven_driveIrq (e : EventBlock) (s : State) :
    TimerDriven e s ((driveIrq .timer (s.setBlock .timer e)).setResult .nothing) := by
  obtain ⟨hu, hi⟩ := driveIrq_timer_driven (s.setBlock .timer e)
  refine ⟨by simp, ?_, ?_, by simp, by simp, by simp, by simp, by simp, by simp, by simp⟩
  · rw [State.setResult_timer, hu]; rfl
  · rw [State.setResult_intc]; exact hi

/-! ## The countdown engine -/

@[simp] theorem updateTimer_cfg (t : Timer) (s : State) : (updateTimer t s).cfg = s.cfg := rfl
@[simp] theorem updateTimer_uart (t : Timer) (s : State) : (updateTimer t s).uart = s.uart := rfl
@[simp] theorem updateTimer_timer (t : Timer) (s : State) :
    (updateTimer t s).timer = { t with irqOut := t.block.irqLevel (blockConfig s.cfg .timer) } := rfl
@[simp] theorem updateTimer_intc (t : Timer) (s : State) :
    (updateTimer t s).intc = s.intc.setLine s.cfg.wiring.timerIrqLine (t.block.irqLevel (blockConfig s.cfg .timer)) := rfl
@[simp] theorem updateTimer_txlog (t : Timer) (s : State) : (updateTimer t s).txlog = s.txlog := rfl
@[simp] theorem updateTimer_result (t : Timer) (s : State) : (updateTimer t s).result = s.result := rfl
@[simp] theorem updateTimer_inbox (t : Timer) (s : State) : (updateTimer t s).inbox = s.inbox := rfl
@[simp] theorem updateTimer_call (t : Timer) (s : State) : (updateTimer t s).call = s.call := rfl
@[simp] theorem updateTimer_draws (t : Timer) (s : State) : (updateTimer t s).draws = s.draws := rfl

/-- An update of the timer's registers touches the timer and the controller alone. -/
theorem updateTimer_frame (t : Timer) (s : State) :
    updateTimer t s = (s.setTimer (updateTimer t s).timer).setIntc (updateTimer t s).intc := rfl

/-- An update of the timer's registers over its end points: the triplet is that of `t`, and the line is driven with its level. -/
theorem timerDriven_updateTimer (t : Timer) (s : State) :
    TimerDriven t.block s ((updateTimer t s).setResult .nothing)
      ∧ ((updateTimer t s).setResult .nothing).timer = { t with irqOut := lineLevel .A t.block } := by
  obtain ⟨hu, hi⟩ := driveIrq_timer_driven (s.setTimer t)
  refine ⟨⟨rfl, ?_, ?_, rfl, rfl, rfl, rfl, rfl, rfl, rfl⟩, hu⟩
  · rw [State.setResult_timer]; exact congrArg Timer.irqOut hu
  · rw [State.setResult_intc]; exact hi

/-- Everything a start can do (42_timer.md R134). -/
theorem startTimer_cases (s : State) :
    (s.timer.load = 0#32 ∧ s.timer.reloadLimit = 0#32 ∧ startTimer s = .error .timerCountZero)
      ∨ (s.timer.load ≠ 0#32 ∧ startTimer s = .ok (updateTimer
          { s.timer with enabled := true, oneShot := true, counter := s.timer.load, running := true } s))
      ∨ (s.timer.load = 0#32 ∧ s.timer.reloadLimit ≠ 0#32 ∧ startTimer s = .ok (updateTimer
          { s.timer with enabled := true, oneShot := false, counter := s.timer.reloadLimit, running := true } s)) := by
  by_cases hl : s.timer.load = 0#32 <;> by_cases hr : s.timer.reloadLimit = 0#32 <;> simp [startTimer, hl, hr]

/-- A start touches the timer and the controller alone: the triplet stays and the line is driven with its level. -/
theorem startTimer_frame {s u : State} (h : startTimer s = .ok u) :
    u = (s.setTimer u.timer).setIntc u.intc ∧ u.timer.block = s.timer.block
      ∧ LineDriven s.cfg.wiring.timerIrqLine (lineLevel .A s.timer.block) s.intc u.intc := by
  rcases startTimer_cases s with ⟨_, _, h'⟩ | ⟨_, h'⟩ | ⟨_, _, h'⟩ <;> rw [h'] at h <;> cases h <;>
    exact ⟨rfl, rfl, (timerDriven_updateTimer _ s).1.2.2.1⟩

/-- Everything an underflow can do (42_timer.md R146). -/
theorem underflow_cases (s : State) :
    (s.timer.oneShot = true
        ∧ underflow s = .ok ((signalEvent .timer evZero s).setTimer { (signalEvent .timer evZero s).timer with running := false }))
      ∨ (s.timer.oneShot = false ∧ s.timer.reloadLimit = 0#32 ∧ underflow s = .error .timerCountZero)
      ∨ (s.timer.oneShot = false ∧ s.timer.reloadLimit ≠ 0#32
        ∧ underflow s = .ok ((signalEvent .timer evZero s).setTimer
            { (signalEvent .timer evZero s).timer with counter := s.timer.reloadLimit })) := by
  by_cases ho : s.timer.oneShot = true <;> by_cases hr : s.timer.reloadLimit = 0#32 <;>
    simp [underflow, signalEvent, ho, hr]

/-- Everything a tick can do (42_timer.md R145): nothing while stopped, a decrement and a drive of the line, or the underflow of the tick that reaches
0. -/
theorem tick_cases (s : State) :
    (s.timer.running = false ∧ tick s = .ok s)
      ∨ (s.timer.running = true ∧ s.timer.counter ≠ 1#32
        ∧ tick s = .ok (updateTimer { s.timer with counter := s.timer.counter - 1#32 } s))
      ∨ (s.timer.running = true ∧ s.timer.counter = 1#32
        ∧ tick s = underflow (s.setTimer { s.timer with counter := 0#32 })) := by
  by_cases hr : s.timer.running = true
  · by_cases hc : s.timer.counter = 1#32
    · simp [tick, hr, hc]
    · have : s.timer.counter - 1#32 ≠ 0#32 := by
        intro h
        exact hc (by simpa [BitVec.sub_eq_iff_eq_add] using h)
      simp [tick, hr, hc, this]
  · simp [tick, hr]

/-- An underflow touches the timer and the controller alone. -/
theorem underflow_frame {s u : State} (h : underflow s = .ok u) : u = (s.setTimer u.timer).setIntc u.intc := by
  rcases underflow_cases s with ⟨_, h'⟩ | ⟨_, _, h'⟩ | ⟨_, _, h'⟩ <;> rw [h'] at h <;> cases h <;> rfl

/-- A tick touches the timer and the controller alone. -/
theorem tick_frame {s u : State} (h : tick s = .ok u) : u = (s.setTimer u.timer).setIntc u.intc := by
  rcases tick_cases s with ⟨_, h'⟩ | ⟨_, _, h'⟩ | ⟨_, _, h'⟩ <;> rw [h'] at h
  · cases h; rfl
  · cases h; rfl
  · exact (underflow_frame h).trans rfl

/-! ## Resets -/

/-- `drive_irq(UART)` as one update. -/
theorem driveIrq_uart_eq (s : State) :
    driveIrq .uart s = (s.setUart { s.uart with irqOut := lineLevel s.cfg.uartMode s.uart.block }).setIntc
      (s.intc.setLine s.cfg.wiring.uartIrqLine (lineLevel s.cfg.uartMode s.uart.block)) := by
  rw [← blockConfig_uart_mode, ← irqLevel_eq_lineLevel]
  rfl

/-- `drive_irq(TIMER)` as one update. -/
theorem driveIrq_timer_eq (s : State) :
    driveIrq .timer s = (s.setTimer { s.timer with irqOut := lineLevel .A s.timer.block }).setIntc
      (s.intc.setLine s.cfg.wiring.timerIrqLine (lineLevel .A s.timer.block)) := by
  rw [← blockConfig_timer_mode s.cfg, ← irqLevel_eq_lineLevel]
  rfl

/-- Everything the reset of the controller does (70_reset_and_hazards.md R223). -/
theorem resetIntc_eq (s : State) :
    resetIntc s = s.setIntc { pendingBits := 0#32, mEnableBits := 0#32, sEnableBits := 0#32, mOut := false, sOut := false } := by
  simp [resetIntc, Intc.recompute]

/-- Everything the reset of the timer does (70_reset_and_hazards.md R222). -/
theorem resetTimer_eq (s : State) :
    resetTimer s
      = (s.setTimer (State.initial s.cfg).timer).setIntc (s.intc.setLine s.cfg.wiring.timerIrqLine false) := by
  have hl : lineLevel .A { status := 0#32, pending := 0#32, enable := 0#32 } = false := by decide
  rw [resetTimer, driveIrq_timer_eq]
  simp only [State.setTimer_timer, hl]
  rfl

/-- Everything the reset of the UART does (70_reset_and_hazards.md R221), in a legal configuration. -/
theorem resetUart_eq {s : State} (h : s.cfg.legal = true) :
    resetUart s
      = ((s.setUart { (State.initial s.cfg).uart with rx := Config.uartRxReset s.draws }).countDraw).setIntc
          (s.intc.setLine s.cfg.wiring.uartIrqLine false) := by
  have hl : lineLevel s.cfg.uartMode { status := evTx, pending := s.cfg.uartResetPending, enable := 0x0#32 } = false := by
    simp only [Config.legal, Bool.and_eq_true, Bool.or_eq_true, decide_eq_true_eq] at h
    unfold lineLevel; split <;> simp_all
  rw [resetUart, driveIrq_uart_eq]
  simp only [State.countDraw_uart, State.countDraw_cfg, State.setUart_uart, State.setUart_cfg, hl]
  rfl

end Sys2Proof.Machine
end

