-- ==== Sys2Proof/Laws/Exec.lean ====
section
/-! SUPPORT. The inversion lemma of `exec` and of `step`: the state every operation leaves, but for the value it returns. Claims about
all operations split on `effect` and cite the lemmas of Laws/Ops.lean; none needs to unfold a meaning again. -/

namespace Sys2Proof.Machine

/-- The state an operation leaves, but for the value it returns, in terms of the shared operations. -/
def effect (i : Instr) (s : State) : Except Refusal State :=
  match i with
  | .uartRdRxtx _ => .ok (clearStatus .uart evRx s)
  | .uartRdTxfull _ => .ok s
  | .uartRdRxempty _ => .ok s
  | .uartRdEvStatus _ => .ok s
  | .uartRdEvPending _ => .ok s
  | .uartRdEvEnable _ => .ok s
  | .uartRdTxempty _ => .ok s
  | .uartRdRxfull _ => .ok s
  | .uartRdOther _ _ => .ok s
  | .uartWrRxtx n v => .ok (signalEvent .uart evTx (s.send (sentByte (lowBytes n v))))
  | .uartWrTxfull _ _ => .ok s
  | .uartWrRxempty _ _ => .ok s
  | .uartWrEvStatus _ _ => .ok s
  | .uartWrEvPending n v => .ok (clearPending .uart (lowBytes n v) s)
  | .uartWrEvEnable n v => .ok (setEnable .uart (lowBytes n v) s)
  | .uartWrTxempty _ _ => .ok s
  | .uartWrRxfull _ _ => .ok s
  | .uartWrOther _ _ _ => .ok s
  | .uartInByteReceived b => .ok (signalEvent .uart evRx (s.setUart { s.uart with rx := b }))
  | .uartInCanAcceptByte => .ok s
  | .uartReset => .ok (resetUart s)
  | .timerRdLoad _ => .ok s
  | .timerRdReload _ => .ok s
  | .timerRdEn _ => .ok s
  | .timerRdUpdateValue _ => .ok s
  | .timerRdValue _ => .ok s
  | .timerRdEvStatus _ => .ok s
  | .timerRdEvPending _ => .ok s
  | .timerRdEvEnable _ => .ok s
  | .timerRdOther _ _ => .ok s
  | .timerWrLoad n v => .ok (updateTimer { s.timer with load := lowBytes n v } s)
  | .timerWrReload n v => .ok (updateTimer { s.timer with reloadLimit := lowBytes n v } s)
  | .timerWrEnStart _ _ => startTimer s
  | .timerWrEnStop _ _ => .ok (stopTimer s)
  | .timerWrUpdateValue _ _ => .ok (updateTimer { s.timer with value := s.timer.counter } s)
  | .timerWrValue _ _ => .ok s
  | .timerWrEvStatus _ _ => .ok s
  | .timerWrEvPending n v => .ok (clearPending .timer (lowBytes n v) s)
  | .timerWrEvEnable n v => .ok (setEnable .timer (lowBytes n v) s)
  | .timerWrOther _ _ _ => .ok s
  | .timerInTick => tick s
  | .timerInUnderflow => underflow s
  | .timerReset => .ok (resetTimer s)
  | .intcRdMIrqEnable => .ok s
  | .intcRdMIrqPending => .ok s
  | .intcRdSIrqEnable => .ok s
  | .intcRdSIrqPending => .ok s
  | .intcWrMIrqEnable v => .ok (s.setIntc (Intc.recompute { s.intc with mEnableBits := v }))
  | .intcWrMIrqPending _ => .ok s
  | .intcWrSIrqEnable v => .ok (s.setIntc (Intc.recompute { s.intc with sEnableBits := v }))
  | .intcWrSIrqPending _ => .ok s
  | .intcInRequest line level => if line < s.cfg.wiring.numLines then .ok (s.setIntc (s.intc.setLine line level)) else .error .noSuchLine
  | .intcReset => .ok (resetIntc s)
  | .erbReadStatus _ => .ok s
  | .erbReadPending _ => .ok s
  | .erbReadEnable _ => .ok s
  | .erbIrqLevel _ => .ok s
  | .erbClearPending dev mask => .ok (clearPending dev mask s)
  | .erbSetEnable dev newEnable => .ok (setEnable dev newEnable s)
  | .erbSignalEvent dev bit => if bit < dev.eventCount then .ok (signalEvent dev (eventMask bit) s) else .error .undefinedEvent
  | .erbClearStatus dev mask => .ok (clearStatus dev mask s)
  | .sysReset => .ok (resetIntc (resetTimer (resetUart s)))

/-- If `exec` answers a next state, it is the operation's effect with the value returned (inversion of `exec`). -/
theorem exec_next {i : Instr} {s t : State} (h : exec i s = .next t) :
    ∃ u, effect i s = .ok u ∧ t = u.setResult t.result := by
  have fin : ∀ {r : Result} {u : State}, t = u.setResult r → t = u.setResult t.result := by
    rintro r u rfl; rfl
  cases i with
  | uartRdRxtx n => exact ⟨_, rfl, fin (busRead_next h).2⟩
  | uartRdTxfull n => exact ⟨_, rfl, fin (busRead_next h).2⟩
  | uartRdRxempty n => exact ⟨_, rfl, fin (busRead_next h).2⟩
  | uartRdEvStatus n => exact ⟨_, rfl, fin (busRead_next h).2⟩
  | uartRdEvPending n => exact ⟨_, rfl, fin (busRead_next h).2⟩
  | uartRdEvEnable n => exact ⟨_, rfl, fin (busRead_next h).2⟩
  | uartRdTxempty n => exact ⟨_, rfl, fin (busRead_next h).2⟩
  | uartRdRxfull n => exact ⟨_, rfl, fin (busRead_next h).2⟩
  | uartRdOther off n => exact ⟨_, rfl, fin (busRead_next h).2⟩
  | uartWrRxtx n v => exact ⟨_, rfl, fin (busWrite_next h).2⟩
  | uartWrTxfull n v => exact ⟨_, rfl, fin (busWrite_next h).2⟩
  | uartWrRxempty n v => exact ⟨_, rfl, fin (busWrite_next h).2⟩
  | uartWrEvStatus n v => exact ⟨_, rfl, fin (busWrite_next h).2⟩
  | uartWrEvPending n v => exact ⟨_, rfl, fin (busWrite_next h).2⟩
  | uartWrEvEnable n v => exact ⟨_, rfl, fin (busWrite_next h).2⟩
  | uartWrTxempty n v => exact ⟨_, rfl, fin (busWrite_next h).2⟩
  | uartWrRxfull n v => exact ⟨_, rfl, fin (busWrite_next h).2⟩
  | uartWrOther off n v => exact ⟨_, rfl, fin (busWrite_next h).2⟩
  | uartInByteReceived b => exact ⟨_, rfl, fin (complete_next h)⟩
  | uartInCanAcceptByte => exact ⟨_, rfl, fin (complete_next h)⟩
  | uartReset => exact ⟨_, rfl, fin (complete_next h)⟩
  | timerRdLoad n => exact ⟨_, rfl, fin (busRead_next h).2⟩
  | timerRdReload n => exact ⟨_, rfl, fin (busRead_next h).2⟩
  | timerRdEn n => exact ⟨_, rfl, fin (busRead_next h).2⟩
  | timerRdUpdateValue n => exact ⟨_, rfl, fin (busRead_next h).2⟩
  | timerRdValue n => exact ⟨_, rfl, fin (busRead_next h).2⟩
  | timerRdEvStatus n => exact ⟨_, rfl, fin (busRead_next h).2⟩
  | timerRdEvPending n => exact ⟨_, rfl, fin (busRead_next h).2⟩
  | timerRdEvEnable n => exact ⟨_, rfl, fin (busRead_next h).2⟩
  | timerRdOther off n => exact ⟨_, rfl, fin (busRead_next h).2⟩
  | timerWrLoad n v => exact ⟨_, rfl, fin (busWrite_next h).2⟩
  | timerWrReload n v => exact ⟨_, rfl, fin (busWrite_next h).2⟩
  | timerWrEnStart n v =>
    have h : (if widthOk n then completeOr (startTimer s) else .refused .accessWidth) = .next t := h
    split at h
    · obtain ⟨u, hu, ht⟩ := completeOr_next h
      exact ⟨u, hu, fin ht⟩
    · cases h
  | timerWrEnStop n v => exact ⟨_, rfl, fin (busWrite_next h).2⟩
  | timerWrUpdateValue n v => exact ⟨_, rfl, fin (busWrite_next h).2⟩
  | timerWrValue n v => exact ⟨_, rfl, fin (busWrite_next h).2⟩
  | timerWrEvStatus n v => exact ⟨_, rfl, fin (busWrite_next h).2⟩
  | timerWrEvPending n v => exact ⟨_, rfl, fin (busWrite_next h).2⟩
  | timerWrEvEnable n v => exact ⟨_, rfl, fin (busWrite_next h).2⟩
  | timerWrOther off n v => exact ⟨_, rfl, fin (busWrite_next h).2⟩
  | timerInTick =>
    obtain ⟨u, hu, ht⟩ := completeOr_next h
    exact ⟨u, hu, fin ht⟩
  | timerInUnderflow =>
    obtain ⟨u, hu, ht⟩ := completeOr_next h
    exact ⟨u, hu, fin ht⟩
  | timerReset => exact ⟨_, rfl, fin (complete_next h)⟩
  | intcRdMIrqEnable => exact ⟨_, rfl, fin (complete_next h)⟩
  | intcRdMIrqPending => exact ⟨_, rfl, fin (complete_next h)⟩
  | intcRdSIrqEnable => exact ⟨_, rfl, fin (complete_next h)⟩
  | intcRdSIrqPending => exact ⟨_, rfl, fin (complete_next h)⟩
  | intcWrMIrqEnable v => exact ⟨_, rfl, fin (complete_next h)⟩
  | intcWrMIrqPending v => exact ⟨_, rfl, fin (complete_next h)⟩
  | intcWrSIrqEnable v => exact ⟨_, rfl, fin (complete_next h)⟩
  | intcWrSIrqPending v => exact ⟨_, rfl, fin (complete_next h)⟩
  | intcInRequest line level =>
    have h : (if hasLine s.cfg.wiring line then complete .nothing (s.setIntc (s.intc.setLine line level))
      else .refused .noSuchLine) = .next t := h
    split at h
    · exact ⟨_, if_pos ((hasLine_iff _ _).1 ‹_›), fin (complete_next h)⟩
    · cases h
  | intcReset => exact ⟨_, rfl, fin (complete_next h)⟩
  | erbReadStatus dev => exact ⟨_, rfl, fin (complete_next h)⟩
  | erbReadPending dev => exact ⟨_, rfl, fin (complete_next h)⟩
  | erbReadEnable dev => exact ⟨_, rfl, fin (complete_next h)⟩
  | erbIrqLevel dev => exact ⟨_, rfl, fin (complete_next h)⟩
  | erbClearPending dev mask => exact ⟨_, rfl, fin (complete_next h)⟩
  | erbSetEnable dev newEnable => exact ⟨_, rfl, fin (complete_next h)⟩
  | erbSignalEvent dev bit =>
    have h : (if bit < dev.eventCount then complete .nothing (signalEvent dev (eventMask bit) s)
      else .refused .undefinedEvent) = .next t := h
    split at h
    · exact ⟨_, if_pos ‹_›, fin (complete_next h)⟩
    · cases h
  | erbClearStatus dev mask => exact ⟨_, rfl, fin (complete_next h)⟩
  | sysReset => exact ⟨_, rfl, fin (complete_next h)⟩

/-- No operation changes the configuration, the inbox or the pending call. -/
theorem effect_keeps {i : Instr} {s u : State} (h : effect i s = .ok u) :
    u.cfg = s.cfg ∧ u.inbox = s.inbox ∧ u.call = s.call := by
  cases i with
  | timerWrEnStart n v => rw [(startTimer_frame h).1]; exact ⟨rfl, rfl, rfl⟩
  | timerInTick => rw [tick_frame h]; exact ⟨rfl, rfl, rfl⟩
  | timerInUnderflow => rw [underflow_frame h]; exact ⟨rfl, rfl, rfl⟩
  | intcInRequest line level =>
    simp only [effect] at h
    split at h
    · cases h; exact ⟨rfl, rfl, rfl⟩
    · cases h
  | erbSignalEvent d bit =>
    simp only [effect] at h
    split at h
    · cases h; cases d <;> exact ⟨rfl, rfl, rfl⟩
    · cases h
  | erbClearPending d m => cases h; cases d <;> exact ⟨rfl, rfl, rfl⟩
  | erbSetEnable d m => cases h; cases d <;> exact ⟨rfl, rfl, rfl⟩
  | erbClearStatus d m => cases h; cases d <;> exact ⟨rfl, rfl, rfl⟩
  | _ => cases h; exact ⟨rfl, rfl, rfl⟩

/-- The state in which a step performs the operation `i`: the first stimulus requested it and is taken, or it is internal and the
pending call named it and is taken. -/
def Performs (s : State) (i : Instr) (s0 : State) : Prop :=
  (s.call = none ∧ ∃ x rest, s.inbox = x :: rest ∧ requestOf s.cfg.wiring x = .op i ∧ s0 = s.setInbox rest)
    ∨ ∃ w, s.call = some w ∧ decode w = .ok i ∧ internal i = true ∧ s0 = s.setCall none

/-- Everything a step can do: nothing with an empty inbox; nothing but taking the stimulus, when it is not for the block; or the
operation that the stimulus or the pending call requests. -/
theorem step_next {s t : State} (h : step s = .next t) :
    (s.call = none ∧ s.inbox = [] ∧ t = s)
      ∨ (s.call = none ∧ ∃ x rest, s.inbox = x :: rest ∧ requestOf s.cfg.wiring x = .elsewhere
          ∧ t = (s.setInbox rest).setResult .nothing)
      ∨ (∃ i s0, Performs s i s0 ∧ exec i s0 = .next t) := by
  unfold step at h
  split at h
  · rename_i w hw
    rcases callOf_cases w with ⟨i, hd, hi, hc⟩ | ⟨r, hc⟩ <;> rw [hc] at h
    · exact .inr (.inr ⟨i, _, .inr ⟨w, hw, hd, hi, rfl⟩, h⟩)
    · cases h
  · rename_i hc
    split at h
    · exact .inl ⟨hc, ‹_›, by simpa using h.symm⟩
    · rename_i x rest hx
      cases hr : requestOf s.cfg.wiring x with
      | op i => exact .inr (.inr ⟨i, _, .inl ⟨hc, x, rest, hx, hr, rfl⟩, by rwa [hr] at h⟩)
      | elsewhere => exact .inr (.inl ⟨hc, x, rest, hx, hr, by rw [hr] at h; exact complete_next h⟩)
      | refuse e => rw [hr] at h; cases h

/-- An operation is performed in the state before the step, but for the inbox and the call; no call is pending there. -/
theorem Performs.state {s s0 : State} {i : Instr} (h : Performs s i s0) : s0 = (s.setInbox s0.inbox).setCall none := by
  rcases h with ⟨hc, x, rest, _, _, rfl⟩ | ⟨_, _, _, _, rfl⟩
  · exact (State.setCall_none_self (s := s.setInbox rest) hc).symm
  · rfl

/-- In a lawful environment a step performs only what the first stimulus requested, and that is an operation of an agent. -/
theorem Performs.external {s s0 : State} {i : Instr} (hx : s.InboxExternal) (h : Performs s i s0) :
    external s.cfg.wiring i = true
      ∧ ∃ x rest, s.inbox = x :: rest ∧ requestOf s.cfg.wiring x = .op i ∧ s0 = s.setInbox rest := by
  rcases h with ⟨_, x, rest, hi, hr, rfl⟩ | ⟨w, hc, _⟩
  · have := hx.2 x (by rw [hi]; exact List.mem_cons_self)
    exact ⟨by simpa [Stimulus.external, hr] using this, x, rest, hi, hr, rfl⟩
  · rw [hx.1] at hc; cases hc

/-- The state a step leaves, but for the inbox and the value returned, is the state before it or the effect of an operation; no
call is pending in it. -/
theorem step_effect {s t : State} (h : step s = .next t) :
    ∃ u, t = ((u.setInbox t.inbox).setCall none).setResult t.result
      ∧ (u = s ∨ ∃ i s0, Performs s i s0 ∧ exec i s0 = .next t ∧ effect i s0 = .ok u) := by
  rcases step_next h with ⟨hc, hi, rfl⟩ | ⟨hc, x, rest, hi, _, rfl⟩ | ⟨i, s0, hp, he⟩
  · exact ⟨t, by rw [State.setCall_none_self (s := t.setInbox t.inbox) hc]; rfl, .inl rfl⟩
  · refine ⟨s, ?_, .inl rfl⟩
    show (s.setInbox rest).setResult .nothing = ((s.setInbox rest).setCall none).setResult .nothing
    rw [State.setCall_none_self (s := s.setInbox rest) hc]
  · obtain ⟨u, hu, ht⟩ := exec_next he
    refine ⟨u, ?_, .inr ⟨i, s0, hp, he, hu⟩⟩
    obtain ⟨_, hin, hcall⟩ := effect_keeps hu
    have hn : u.call = none := by rw [hcall, hp.state]; rfl
    have hti : t.inbox = u.inbox := by rw [ht]; rfl
    rw [hti, State.setCall_none_self (s := u.setInbox u.inbox) hn]
    exact ht

/-- No step leaves a call pending. -/
theorem step_call {s t : State} (h : step s = .next t) : t.call = none := by
  obtain ⟨u, ht, _⟩ := step_effect h
  rw [ht]; rfl

end Sys2Proof.Machine
end

