-- ==== Sys2Proof/Laws/Kept.lean ====
section
/-! SUPPORT. The induction over operations, packaged once: a predicate on states that each shared operation keeps is kept by every
operation and by every step, whatever the environment issues. A field update of the timer outside its triplet and its line is one
case, with or without a drive of the line after it. Invariants that need a premise on the environment split on `effect` instead. -/

namespace Sys2Proof.Machine

/-- Each shared operation keeps `P`. -/
structure KeptByOps (P : State → Prop) : Prop where
  onSignalUart : ∀ s b, P s → (b = evTx ∨ b = evRx) → P (signalEvent .uart b s)
  onSignalTimer : ∀ s, P s → P (signalEvent .timer evZero s)
  onClearPending : ∀ d m s, P s → P (clearPending d m s)
  onSetEnable : ∀ d m s, P s → P (setEnable d m s)
  onClearStatus : ∀ d m s, P s → P (clearStatus d m s)
  onSend : ∀ b s, P s → P (s.send b)
  onSetRx : ∀ b s, P s → P (s.setUart { s.uart with rx := b })
  onResetUart : ∀ s, P s → P (resetUart s)
  onResetTimer : ∀ s, P s → P (resetTimer s)
  onResetIntc : ∀ s, P s → P (resetIntc s)
  onSetTimer : ∀ (s : State) (t : Timer), P s → t.block = s.timer.block → t.irqOut = s.timer.irqOut → P (s.setTimer t)
  onUpdateTimer : ∀ (s : State) (t : Timer), P s → t.block = s.timer.block → P (updateTimer t s)
  onRecompute : ∀ (s : State) (c : Intc), P s → c.pendingBits = s.intc.pendingBits → P (s.setIntc c.recompute)
  onSetLine : ∀ (s : State) i l, P s → i < s.cfg.wiring.numLines → P (s.setIntc (s.intc.setLine i l))

/-- A predicate that the shared operations keep, every operation keeps. -/
theorem kept_effect {P : State → Prop} (k : KeptByOps P) {i : Instr} {s u : State} (hp : P s) (h : effect i s = .ok u) :
    P u := by
  have uf : ∀ s u, P s → underflow s = .ok u → P u := by
    intro s u hp h
    rcases underflow_cases s with ⟨_, h'⟩ | ⟨_, _, h'⟩ | ⟨_, _, h'⟩ <;> rw [h'] at h <;> cases h
    · exact k.onSetTimer _ _ (k.onSignalTimer _ hp) rfl rfl
    · exact k.onSetTimer _ _ (k.onSignalTimer _ hp) rfl rfl
  cases i with
  | timerWrEnStart n v =>
    rcases startTimer_cases s with ⟨_, _, h'⟩ | ⟨_, h'⟩ | ⟨_, _, h'⟩ <;> simp only [effect] at h <;> rw [h'] at h <;> cases h
    · exact k.onUpdateTimer _ _ hp rfl
    · exact k.onUpdateTimer _ _ hp rfl
  | timerInTick =>
    rcases tick_cases s with ⟨_, h'⟩ | ⟨_, _, h'⟩ | ⟨_, _, h'⟩ <;> simp only [effect] at h <;> rw [h'] at h
    · cases h; exact hp
    · cases h; exact k.onUpdateTimer _ _ hp rfl
    · exact uf _ _ (k.onSetTimer s { s.timer with counter := 0#32 } hp rfl rfl) h
  | timerInUnderflow => exact uf _ _ hp h
  | intcInRequest l v => simp only [effect] at h; split at h <;> cases h; exact k.onSetLine _ _ _ hp ‹_›
  | erbSignalEvent d b =>
    simp only [effect] at h; split at h <;> cases h
    cases d <;> simp only [Dev.eventCount] at *
    · have : b = 0 ∨ b = 1 := by omega
      rcases this with rfl | rfl
      · exact k.onSignalUart _ _ hp (.inl rfl)
      · exact k.onSignalUart _ _ hp (.inr rfl)
    · have : b = 0 := by omega
      subst this; exact k.onSignalTimer _ hp
  | erbClearPending d b => cases h; exact k.onClearPending _ _ _ hp
  | erbSetEnable d b => cases h; exact k.onSetEnable _ _ _ hp
  | erbClearStatus d b => cases h; exact k.onClearStatus _ _ _ hp
  | uartRdRxtx => cases h; exact k.onClearStatus _ _ _ hp
  | uartWrRxtx => cases h; exact k.onSignalUart _ _ (k.onSend _ _ hp) (.inl rfl)
  | uartWrEvPending => cases h; exact k.onClearPending _ _ _ hp
  | uartWrEvEnable => cases h; exact k.onSetEnable _ _ _ hp
  | timerWrEvPending => cases h; exact k.onClearPending _ _ _ hp
  | timerWrEvEnable => cases h; exact k.onSetEnable _ _ _ hp
  | uartInByteReceived => cases h; exact k.onSignalUart _ _ (k.onSetRx _ _ hp) (.inr rfl)
  | uartReset => cases h; exact k.onResetUart _ hp
  | timerReset => cases h; exact k.onResetTimer _ hp
  | intcReset => cases h; exact k.onResetIntc _ hp
  | sysReset => cases h; exact k.onResetIntc _ (k.onResetTimer _ (k.onResetUart _ hp))
  | timerWrLoad => cases h; exact k.onUpdateTimer _ _ hp rfl
  | timerWrReload => cases h; exact k.onUpdateTimer _ _ hp rfl
  | timerWrEnStop => cases h; exact k.onUpdateTimer _ _ hp rfl
  | timerWrUpdateValue => cases h; exact k.onUpdateTimer _ _ hp rfl
  | intcWrMIrqEnable => cases h; exact k.onRecompute _ _ hp rfl
  | intcWrSIrqEnable => cases h; exact k.onRecompute _ _ hp rfl
  | _ => cases h; exact hp

/-- A predicate that the shared operations keep, and that does not look at the inbox, the call or the value returned, every step
keeps. -/
theorem kept_step {P : State → Prop} (k : KeptByOps P) (hr : ∀ s r, P s → P (s.setResult r))
    (hi : ∀ s rest, P s → P ((s.setInbox rest).setCall none)) {s t : State} (hp : P s) (h : step s = .next t) : P t := by
  obtain ⟨u, ht, rfl | ⟨i, s0, h1, _, h2⟩⟩ := step_effect h
  · rw [ht]; exact hr _ _ (hi _ _ hp)
  · rw [ht]; exact hr _ _ (hi _ _ (kept_effect k (by rw [h1.state]; exact hi _ _ hp) h2))

end Sys2Proof.Machine
end

