-- ==== Sys2Proof/Laws/PerInstr.lean ====
section
/-! SUPPORT. The per-instruction family RowMatch: the encoding of a well-formed operation matches its own row of
spec/opcode_table.json. -/

namespace Sys2Proof.Laws

/-- The `match` and `mask` of an operation's row of spec/opcode_table.json. -/
def tableRow : Instr → Nat × Nat
  | .uartRdRxtx _ => (0x100, 0x3FF)
  | .uartRdTxfull _ => (0x104, 0x3FF)
  | .uartRdRxempty _ => (0x108, 0x3FF)
  | .uartRdEvStatus _ => (0x10C, 0x3FF)
  | .uartRdEvPending _ => (0x110, 0x3FF)
  | .uartRdEvEnable _ => (0x114, 0x3FF)
  | .uartRdTxempty _ => (0x118, 0x3FF)
  | .uartRdRxfull _ => (0x11C, 0x3FF)
  | .uartRdOther _ _ => (0x100, 0x3C0)
  | .uartWrRxtx _ _ => (0x140, 0x3FF)
  | .uartWrTxfull _ _ => (0x144, 0x3FF)
  | .uartWrRxempty _ _ => (0x148, 0x3FF)
  | .uartWrEvStatus _ _ => (0x14C, 0x3FF)
  | .uartWrEvPending _ _ => (0x150, 0x3FF)
  | .uartWrEvEnable _ _ => (0x154, 0x3FF)
  | .uartWrTxempty _ _ => (0x158, 0x3FF)
  | .uartWrRxfull _ _ => (0x15C, 0x3FF)
  | .uartWrOther _ _ _ => (0x140, 0x3C0)
  | .uartInByteReceived _ => (0x180, 0x3FF)
  | .uartInCanAcceptByte => (0x181, 0x3FF)
  | .uartReset => (0x1C0, 0x3FF)
  | .timerRdLoad _ => (0x200, 0x3FF)
  | .timerRdReload _ => (0x204, 0x3FF)
  | .timerRdEn _ => (0x208, 0x3FF)
  | .timerRdUpdateValue _ => (0x20C, 0x3FF)
  | .timerRdValue _ => (0x210, 0x3FF)
  | .timerRdEvStatus _ => (0x214, 0x3FF)
  | .timerRdEvPending _ => (0x218, 0x3FF)
  | .timerRdEvEnable _ => (0x21C, 0x3FF)
  | .timerRdOther _ _ => (0x200, 0x3C0)
  | .timerWrLoad _ _ => (0x240, 0x3FF)
  | .timerWrReload _ _ => (0x244, 0x3FF)
  | .timerWrEnStart _ _ => (0x248, 0x3FF)
  | .timerWrEnStop _ _ => (0x248, 0x3FF)
  | .timerWrUpdateValue _ _ => (0x24C, 0x3FF)
  | .timerWrValue _ _ => (0x250, 0x3FF)
  | .timerWrEvStatus _ _ => (0x254, 0x3FF)
  | .timerWrEvPending _ _ => (0x258, 0x3FF)
  | .timerWrEvEnable _ _ => (0x25C, 0x3FF)
  | .timerWrOther _ _ _ => (0x240, 0x3C0)
  | .timerInTick => (0x280, 0x3FF)
  | .timerInUnderflow => (0x281, 0x3FF)
  | .timerReset => (0x2C0, 0x3FF)
  | .intcRdMIrqEnable => (0x300, 0x3FF)
  | .intcRdMIrqPending => (0x301, 0x3FF)
  | .intcRdSIrqEnable => (0x302, 0x3FF)
  | .intcRdSIrqPending => (0x303, 0x3FF)
  | .intcWrMIrqEnable _ => (0x340, 0x3FF)
  | .intcWrMIrqPending _ => (0x341, 0x3FF)
  | .intcWrSIrqEnable _ => (0x342, 0x3FF)
  | .intcWrSIrqPending _ => (0x343, 0x3FF)
  | .intcInRequest _ _ => (0x380, 0x3FF)
  | .intcReset => (0x3C0, 0x3FF)
  | .erbReadStatus _ => (0x000, 0x3FF)
  | .erbReadPending _ => (0x001, 0x3FF)
  | .erbReadEnable _ => (0x002, 0x3FF)
  | .erbIrqLevel _ => (0x003, 0x3FF)
  | .erbClearPending _ _ => (0x041, 0x3FF)
  | .erbSetEnable _ _ => (0x042, 0x3FF)
  | .erbSignalEvent _ _ => (0x080, 0x3FF)
  | .erbClearStatus _ _ => (0x081, 0x3FF)
  | .sysReset => (0x0C0, 0x3FF)

/-- The selector in the low ten bits of an operation's encoding, under the row's mask, is the row's match. -/
def RowMatch.Statement (i : Instr) : Prop :=
  i.wellFormed = true → (unpack (encode i)).sel.toNat &&& (tableRow i).2 = (tableRow i).1

theorem catchAll_selector (base off : Nat) (h : ∀ k < 0x40, (BitVec.ofNat 10 (base + k)).toNat &&& 0x3C0 = base) :
    (BitVec.ofNat 10 (base + off % 0x40)).toNat &&& 0x3C0 = base :=
  h _ (Nat.mod_lt _ (by norm_num))

theorem RowMatch.uartRdRxtx (n : Nat) : Statement (.uartRdRxtx n) := by
  intro _
  rw [encode, unpack_pack]
  simp [encodeFields, tableRow]
theorem RowMatch.uartRdTxfull (n : Nat) : Statement (.uartRdTxfull n) := by
  intro _
  rw [encode, unpack_pack]
  simp [encodeFields, tableRow]
theorem RowMatch.uartRdRxempty (n : Nat) : Statement (.uartRdRxempty n) := by
  intro _
  rw [encode, unpack_pack]
  simp [encodeFields, tableRow]
theorem RowMatch.uartRdEvStatus (n : Nat) : Statement (.uartRdEvStatus n) := by
  intro _
  rw [encode, unpack_pack]
  simp [encodeFields, tableRow]
theorem RowMatch.uartRdEvPending (n : Nat) : Statement (.uartRdEvPending n) := by
  intro _
  rw [encode, unpack_pack]
  simp [encodeFields, tableRow]
theorem RowMatch.uartRdEvEnable (n : Nat) : Statement (.uartRdEvEnable n) := by
  intro _
  rw [encode, unpack_pack]
  simp [encodeFields, tableRow]
theorem RowMatch.uartRdTxempty (n : Nat) : Statement (.uartRdTxempty n) := by
  intro _
  rw [encode, unpack_pack]
  simp [encodeFields, tableRow]
theorem RowMatch.uartRdRxfull (n : Nat) : Statement (.uartRdRxfull n) := by
  intro _
  rw [encode, unpack_pack]
  simp [encodeFields, tableRow]
theorem RowMatch.uartRdOther (off n : Nat) : Statement (.uartRdOther off n) := by
  intro _
  rw [encode, unpack_pack]
  exact catchAll_selector 0x100 off (by decide)
theorem RowMatch.uartWrRxtx (n : Nat) (v : Word) : Statement (.uartWrRxtx n v) := by
  intro _
  rw [encode, unpack_pack]
  simp [encodeFields, tableRow]
theorem RowMatch.uartWrTxfull (n : Nat) (v : Word) : Statement (.uartWrTxfull n v) := by
  intro _
  rw [encode, unpack_pack]
  simp [encodeFields, tableRow]
theorem RowMatch.uartWrRxempty (n : Nat) (v : Word) : Statement (.uartWrRxempty n v) := by
  intro _
  rw [encode, unpack_pack]
  simp [encodeFields, tableRow]
theorem RowMatch.uartWrEvStatus (n : Nat) (v : Word) : Statement (.uartWrEvStatus n v) := by
  intro _
  rw [encode, unpack_pack]
  simp [encodeFields, tableRow]
theorem RowMatch.uartWrEvPending (n : Nat) (v : Word) : Statement (.uartWrEvPending n v) := by
  intro _
  rw [encode, unpack_pack]
  simp [encodeFields, tableRow]
theorem RowMatch.uartWrEvEnable (n : Nat) (v : Word) : Statement (.uartWrEvEnable n v) := by
  intro _
  rw [encode, unpack_pack]
  simp [encodeFields, tableRow]
theorem RowMatch.uartWrTxempty (n : Nat) (v : Word) : Statement (.uartWrTxempty n v) := by
  intro _
  rw [encode, unpack_pack]
  simp [encodeFields, tableRow]
theorem RowMatch.uartWrRxfull (n : Nat) (v : Word) : Statement (.uartWrRxfull n v) := by
  intro _
  rw [encode, unpack_pack]
  simp [encodeFields, tableRow]
theorem RowMatch.uartWrOther (off n : Nat) (v : Word) : Statement (.uartWrOther off n v) := by
  intro _
  rw [encode, unpack_pack]
  exact catchAll_selector 0x140 off (by decide)
theorem RowMatch.uartInByteReceived (b : Byte) : Statement (.uartInByteReceived b) := by
  intro _
  rw [encode, unpack_pack]
  simp [encodeFields, tableRow]
theorem RowMatch.uartInCanAcceptByte : Statement .uartInCanAcceptByte := by
  intro _
  rw [encode, unpack_pack]
  simp [encodeFields, tableRow]
theorem RowMatch.uartReset : Statement .uartReset := by
  intro _
  rw [encode, unpack_pack]
  simp [encodeFields, tableRow]
theorem RowMatch.timerRdLoad (n : Nat) : Statement (.timerRdLoad n) := by
  intro _
  rw [encode, unpack_pack]
  simp [encodeFields, tableRow]
theorem RowMatch.timerRdReload (n : Nat) : Statement (.timerRdReload n) := by
  intro _
  rw [encode, unpack_pack]
  simp [encodeFields, tableRow]
theorem RowMatch.timerRdEn (n : Nat) : Statement (.timerRdEn n) := by
  intro _
  rw [encode, unpack_pack]
  simp [encodeFields, tableRow]
theorem RowMatch.timerRdUpdateValue (n : Nat) : Statement (.timerRdUpdateValue n) := by
  intro _
  rw [encode, unpack_pack]
  simp [encodeFields, tableRow]
theorem RowMatch.timerRdValue (n : Nat) : Statement (.timerRdValue n) := by
  intro _
  rw [encode, unpack_pack]
  simp [encodeFields, tableRow]
theorem RowMatch.timerRdEvStatus (n : Nat) : Statement (.timerRdEvStatus n) := by
  intro _
  rw [encode, unpack_pack]
  simp [encodeFields, tableRow]
theorem RowMatch.timerRdEvPending (n : Nat) : Statement (.timerRdEvPending n) := by
  intro _
  rw [encode, unpack_pack]
  simp [encodeFields, tableRow]
theorem RowMatch.timerRdEvEnable (n : Nat) : Statement (.timerRdEvEnable n) := by
  intro _
  rw [encode, unpack_pack]
  simp [encodeFields, tableRow]
theorem RowMatch.timerRdOther (off n : Nat) : Statement (.timerRdOther off n) := by
  intro _
  rw [encode, unpack_pack]
  exact catchAll_selector 0x200 off (by decide)
theorem RowMatch.timerWrLoad (n : Nat) (v : Word) : Statement (.timerWrLoad n v) := by
  intro _
  rw [encode, unpack_pack]
  simp [encodeFields, tableRow]
theorem RowMatch.timerWrReload (n : Nat) (v : Word) : Statement (.timerWrReload n v) := by
  intro _
  rw [encode, unpack_pack]
  simp [encodeFields, tableRow]
theorem RowMatch.timerWrEnStart (n : Nat) (v : Word) : Statement (.timerWrEnStart n v) := by
  intro _
  rw [encode, unpack_pack]
  simp [encodeFields, tableRow]
theorem RowMatch.timerWrEnStop (n : Nat) (v : Word) : Statement (.timerWrEnStop n v) := by
  intro _
  rw [encode, unpack_pack]
  simp [encodeFields, tableRow]
theorem RowMatch.timerWrUpdateValue (n : Nat) (v : Word) : Statement (.timerWrUpdateValue n v) := by
  intro _
  rw [encode, unpack_pack]
  simp [encodeFields, tableRow]
theorem RowMatch.timerWrValue (n : Nat) (v : Word) : Statement (.timerWrValue n v) := by
  intro _
  rw [encode, unpack_pack]
  simp [encodeFields, tableRow]
theorem RowMatch.timerWrEvStatus (n : Nat) (v : Word) : Statement (.timerWrEvStatus n v) := by
  intro _
  rw [encode, unpack_pack]
  simp [encodeFields, tableRow]
theorem RowMatch.timerWrEvPending (n : Nat) (v : Word) : Statement (.timerWrEvPending n v) := by
  intro _
  rw [encode, unpack_pack]
  simp [encodeFields, tableRow]
theorem RowMatch.timerWrEvEnable (n : Nat) (v : Word) : Statement (.timerWrEvEnable n v) := by
  intro _
  rw [encode, unpack_pack]
  simp [encodeFields, tableRow]
theorem RowMatch.timerWrOther (off n : Nat) (v : Word) : Statement (.timerWrOther off n v) := by
  intro _
  rw [encode, unpack_pack]
  exact catchAll_selector 0x240 off (by decide)
theorem RowMatch.timerInTick : Statement .timerInTick := by
  intro _
  rw [encode, unpack_pack]
  simp [encodeFields, tableRow]
theorem RowMatch.timerInUnderflow : Statement .timerInUnderflow := by
  intro _
  rw [encode, unpack_pack]
  simp [encodeFields, tableRow]
theorem RowMatch.timerReset : Statement .timerReset := by
  intro _
  rw [encode, unpack_pack]
  simp [encodeFields, tableRow]
theorem RowMatch.intcRdMIrqEnable : Statement .intcRdMIrqEnable := by
  intro _
  rw [encode, unpack_pack]
  simp [encodeFields, tableRow]
theorem RowMatch.intcRdMIrqPending : Statement .intcRdMIrqPending := by
  intro _
  rw [encode, unpack_pack]
  simp [encodeFields, tableRow]
theorem RowMatch.intcRdSIrqEnable : Statement .intcRdSIrqEnable := by
  intro _
  rw [encode, unpack_pack]
  simp [encodeFields, tableRow]
theorem RowMatch.intcRdSIrqPending : Statement .intcRdSIrqPending := by
  intro _
  rw [encode, unpack_pack]
  simp [encodeFields, tableRow]
theorem RowMatch.intcWrMIrqEnable (v : Word) : Statement (.intcWrMIrqEnable v) := by
  intro _
  rw [encode, unpack_pack]
  simp [encodeFields, tableRow]
theorem RowMatch.intcWrMIrqPending (v : Word) : Statement (.intcWrMIrqPending v) := by
  intro _
  rw [encode, unpack_pack]
  simp [encodeFields, tableRow]
theorem RowMatch.intcWrSIrqEnable (v : Word) : Statement (.intcWrSIrqEnable v) := by
  intro _
  rw [encode, unpack_pack]
  simp [encodeFields, tableRow]
theorem RowMatch.intcWrSIrqPending (v : Word) : Statement (.intcWrSIrqPending v) := by
  intro _
  rw [encode, unpack_pack]
  simp [encodeFields, tableRow]
theorem RowMatch.intcInRequest (line : Nat) (level : Bool) : Statement (.intcInRequest line level) := by
  intro _
  rw [encode, unpack_pack]
  simp [encodeFields, tableRow]
theorem RowMatch.intcReset : Statement .intcReset := by
  intro _
  rw [encode, unpack_pack]
  simp [encodeFields, tableRow]
theorem RowMatch.erbReadStatus (dev : Dev) : Statement (.erbReadStatus dev) := by
  intro _
  rw [encode, unpack_pack]
  simp [encodeFields, tableRow]
theorem RowMatch.erbReadPending (dev : Dev) : Statement (.erbReadPending dev) := by
  intro _
  rw [encode, unpack_pack]
  simp [encodeFields, tableRow]
theorem RowMatch.erbReadEnable (dev : Dev) : Statement (.erbReadEnable dev) := by
  intro _
  rw [encode, unpack_pack]
  simp [encodeFields, tableRow]
theorem RowMatch.erbIrqLevel (dev : Dev) : Statement (.erbIrqLevel dev) := by
  intro _
  rw [encode, unpack_pack]
  simp [encodeFields, tableRow]
theorem RowMatch.erbClearPending (dev : Dev) (mask : Word) : Statement (.erbClearPending dev mask) := by
  intro _
  rw [encode, unpack_pack]
  simp [encodeFields, tableRow]
theorem RowMatch.erbSetEnable (dev : Dev) (newEnable : Word) : Statement (.erbSetEnable dev newEnable) := by
  intro _
  rw [encode, unpack_pack]
  simp [encodeFields, tableRow]
theorem RowMatch.erbSignalEvent (dev : Dev) (bit : Nat) : Statement (.erbSignalEvent dev bit) := by
  intro _
  rw [encode, unpack_pack]
  simp [encodeFields, tableRow]
theorem RowMatch.erbClearStatus (dev : Dev) (mask : Word) : Statement (.erbClearStatus dev mask) := by
  intro _
  rw [encode, unpack_pack]
  simp [encodeFields, tableRow]
theorem RowMatch.sysReset : Statement .sysReset := by
  intro _
  rw [encode, unpack_pack]
  simp [encodeFields, tableRow]

end Sys2Proof.Laws
end

