-- ==== Sys2Proof/Tests/Slice0.lean ====
section
/-! SUPPORT. The model's own tests: the smoke test of WellFormed, the words of 30_encoding.md R63 to R66 written out, one step of every
operation with the value that a rule or a vector of 95_test_vectors.md gives (each test names its source), and for every
statement with hypotheses a witness that meets them. -/

namespace Sys2Proof.Tests

open Sys2Proof Sys2Proof.Machine

/-! ## Helpers -/

/-- The test configuration of 95_test_vectors.md, in the mode and with the re-latch parameter given. -/
def cfgOf (m : Mode) (r : EnableRelatch) : Config where
  uartMode := m
  enableRelatch := r
  uartResetPending := 0x0#32
  transport := true
  wiring :=
    { lastLine := 31, uartIrqLine := 0, timerIrqLine := 1, uartBase := 0, timerBase := 0x100, windowSize := 0x100,
      timerFreqHz := 1, mIrqEnableId := 0, mIrqPendingId := 1, sIrqEnableId := 2, sIrqPendingId := 3 }

/-- `RESET ALL` in the test configuration, mode B: `UART_RX_RESET = 0x00`. -/
def base : State :=
  { State.initial (cfgOf .B .newlyEnabled) with
    uart := { block := { status := 1#32, pending := 0#32, enable := 0#32 }, rx := 0#8, irqOut := false } }

/-- The same in mode A. -/
def baseA : State := { base with cfg := cfgOf .A .newlyEnabled }

/-- The UART's triplet set to (s, p, e). -/
def uartAt (st p e : Word) (s : State) : State :=
  { s with uart := { s.uart with block := { status := st, pending := p, enable := e } } }

/-- The timer's triplet set to (s, p, e). -/
def timerAt (st p e : Word) (s : State) : State :=
  { s with timer := { s.timer with block := { status := st, pending := p, enable := e } } }

/-- The timer with LOAD, RELOAD, a count, and whether it runs and stops once. -/
def counting (load reload count : Word) (running oneShot : Bool) (s : State) : State :=
  { s with timer := { s.timer with load := load, reloadLimit := reload, counter := count, enabled := true,
                                   running := running, oneShot := oneShot } }

/-- The next state, if there is one. -/
def nextOf (o : Host.Outcome State Fault Refusal) : Option State :=
  match o with
  | .next t => some t
  | .fault _ => none
  | .refused _ => none

/-- The refusal, if there is one. -/
def refusalOf (o : Host.Outcome State Fault Refusal) : Option Refusal :=
  match o with
  | .next _ => none
  | .fault _ => none
  | .refused r => some r

/-- What an operation returns at a state. -/
def returns (i : Instr) (s : State) : Option Result := (nextOf (exec i s)).map (·.result)

/-- A triplet (s, p, e), the line of its device, and the controller's pending bits. -/
structure Seen where
  status : Word
  pending : Word
  enable : Word
  irq : Bool
  pendingBits : Word
deriving DecidableEq, Repr

/-- The UART's after an operation. -/
def uartAfter (i : Instr) (s : State) : Option Seen :=
  (nextOf (exec i s)).map fun t =>
    ⟨t.uart.block.status, t.uart.block.pending, t.uart.block.enable, t.uart.irqOut, t.intc.pendingBits⟩

/-- The timer's after an operation. -/
def timerAfter (i : Instr) (s : State) : Option Seen :=
  (nextOf (exec i s)).map fun t =>
    ⟨t.timer.block.status, t.timer.block.pending, t.timer.block.enable, t.timer.irqOut, t.intc.pendingBits⟩

/-- The engine: counter, running, one_shot, enabled, value. -/
structure Engine where
  counter : Word
  running : Bool
  oneShot : Bool
  enabled : Bool
  value : Word
deriving DecidableEq, Repr

/-- The engine after an operation. -/
def engineAfter (i : Instr) (s : State) : Option Engine :=
  (nextOf (exec i s)).map fun t => ⟨t.timer.counter, t.timer.running, t.timer.oneShot, t.timer.enabled, t.timer.value⟩

/-- The controller after an operation. -/
def intcAfter (i : Instr) (s : State) : Option Intc := (nextOf (exec i s)).map (·.intc)

/-- The operation a word decodes to. -/
def decoded (w : OpWord) : Option Instr :=
  match decode w with
  | .ok i => some i
  | .error _ => none

/-! ## WellFormed: each check refuses a term -/

theorem test_wf_width_zero : (Instr.uartRdRxtx 0).wellFormed = false := by decide
theorem test_wf_width_five : (Instr.timerRdValue 5).wellFormed = false := by decide
theorem test_wf_data_too_wide : (Instr.uartWrRxtx 1 0x100#32).wellFormed = false := by decide
theorem test_wf_data_fits : (Instr.uartWrRxtx 1 0xFF#32).wellFormed = true := by decide
theorem test_wf_listed_offset : (Instr.uartRdOther 0x1C 4).wellFormed = false := by decide
theorem test_wf_unlisted_offset : (Instr.uartRdOther 0x1D 4).wellFormed = true := by decide
theorem test_wf_offset_too_large : (Instr.timerWrOther (2 ^ 70) 4 0#32).wellFormed = false := by decide
theorem test_wf_start_needs_bit0 : (Instr.timerWrEnStart 4 2#32).wellFormed = false := by decide
theorem test_wf_stop_needs_bit0_clear : (Instr.timerWrEnStop 4 3#32).wellFormed = false := by decide
theorem test_wf_line_too_large : (Instr.intcInRequest (2 ^ 32) true).wellFormed = false := by decide
theorem test_wf_uart_event : (Instr.erbSignalEvent .uart 2).wellFormed = false := by decide
theorem test_wf_timer_event : (Instr.erbSignalEvent .timer 1).wellFormed = false := by decide
theorem test_wf_clear_status_mask : (Instr.erbClearStatus .timer 2#32).wellFormed = false := by decide

/-- An illegal configuration: a peripheral on a line that does not exist, both on one line, overlapping windows (00 R8). -/
theorem test_config_refused :
    ({ cfgOf .B .newlyEnabled with uartResetPending := 1#32 }).legal = false
      ∧ ({ cfgOf .B .newlyEnabled with transport := false }).legal = false
      ∧ ({ (cfgOf .B .newlyEnabled).wiring with uartIrqLine := 32 }).legal = false
      ∧ ({ (cfgOf .B .newlyEnabled).wiring with timerIrqLine := 0 }).legal = false
      ∧ ({ (cfgOf .B .newlyEnabled).wiring with timerBase := 0xFF }).legal = false
      ∧ ({ (cfgOf .B .newlyEnabled).wiring with windowSize := 0x1F }).legal = false
      ∧ ({ (cfgOf .B .newlyEnabled).wiring with lastLine := 32 }).legal = false := by decide

theorem test_config_legal :
    (cfgOf .B .newlyEnabled).legal = true ∧ (cfgOf .A .allEnabled).legal = true
      ∧ ({ cfgOf .A .newlyEnabled with uartResetPending := 1#32 }).legal = true := by decide

/-! ## Decode: the selectors of 30_encoding.md R63 to R66 -/

theorem test_decode_uart_reads :
    [0x100#112, 0x104#112, 0x108#112, 0x10C#112, 0x110#112, 0x114#112, 0x118#112, 0x11C#112, 0x120#112].map decoded
      = [Instr.uartRdRxtx 4, .uartRdTxfull 4, .uartRdRxempty 4, .uartRdEvStatus 4, .uartRdEvPending 4, .uartRdEvEnable 4,
          .uartRdTxempty 4, .uartRdRxfull 4, .uartRdOther 0x20 4].map some := by decide

theorem test_decode_uart_writes :
    [0x410140#112, 0x144#112, 0x148#112, 0x14C#112, 0x20150#112, 0xFF0554#112, 0x158#112, 0x15C#112, 0x1017F#112].map decoded
      = [Instr.uartWrRxtx 4 0x41#32, .uartWrTxfull 4 0#32, .uartWrRxempty 4 0#32, .uartWrEvStatus 4 0#32,
          .uartWrEvPending 4 2#32, .uartWrEvEnable 1 0xFF#32, .uartWrTxempty 4 0#32, .uartWrRxfull 4 0#32,
          .uartWrOther 0x3F 4 1#32].map some := by decide

theorem test_decode_uart_inputs :
    [0x680180#112, 0x181#112, 0x1C0#112].map decoded
      = [Instr.uartInByteReceived 0x68#8, .uartInCanAcceptByte, .uartReset].map some := by decide

theorem test_decode_timer_reads :
    [0x200#112, 0x204#112, 0x208#112, 0x20C#112, 0x210#112, 0x214#112, 0x218#112, 0x21C#112, 0x206#112].map decoded
      = [Instr.timerRdLoad 4, .timerRdReload 4, .timerRdEn 4, .timerRdUpdateValue 4, .timerRdValue 4, .timerRdEvStatus 4,
          .timerRdEvPending 4, .timerRdEvEnable 4, .timerRdOther 0x06 4].map some := by decide

theorem test_decode_timer_writes :
    [0x30240#112, 0x20244#112, 0x10248#112, 0x20248#112, 0x24C#112, 0x50250#112, 0x254#112, 0x10258#112, 0x1025C#112,
        0x10246#112].map decoded
      = [Instr.timerWrLoad 4 3#32, .timerWrReload 4 2#32, .timerWrEnStart 4 1#32, .timerWrEnStop 4 2#32,
          .timerWrUpdateValue 4 0#32, .timerWrValue 4 5#32, .timerWrEvStatus 4 0#32, .timerWrEvPending 4 1#32,
          .timerWrEvEnable 4 1#32, .timerWrOther 0x06 4 1#32].map some := by decide

theorem test_decode_timer_inputs :
    [0x280#112, 0x281#112, 0x2C0#112].map decoded = [Instr.timerInTick, .timerInUnderflow, .timerReset].map some := by decide

theorem test_decode_controller :
    [0x300#112, 0x301#112, 0x302#112, 0x303#112, 0x10340#112, 0x341#112, 0x20342#112, 0x343#112, 0x32380#112, 0x50380#112,
        0x3C0#112].map decoded
      = [Instr.intcRdMIrqEnable, .intcRdMIrqPending, .intcRdSIrqEnable, .intcRdSIrqPending, .intcWrMIrqEnable 1#32,
          .intcWrMIrqPending 0#32, .intcWrSIrqEnable 2#32, .intcWrSIrqPending 0#32, .intcInRequest 3 true,
          .intcInRequest 5 false, .intcReset].map some := by decide

theorem test_decode_erb_and_system :
    [0x000#112, 0x1001#112, 0x002#112, 0x1003#112, 0x30041#112, 0x31042#112, 0x10080#112, 0x11081#112, 0x0C0#112].map decoded
      = [Instr.erbReadStatus .uart, .erbReadPending .timer, .erbReadEnable .uart, .erbIrqLevel .timer,
          .erbClearPending .uart 3#32, .erbSetEnable .timer 3#32, .erbSignalEvent .uart 1, .erbClearStatus .timer 1#32,
          .sysReset].map some := by decide

/-- No row of the table, reserved bits, data wider than the access, an event the timer does not have (R62). -/
theorem test_decode_rejects :
    [0x004#112, 0x040#112, 0x182#112, 0x304#112, 0x381#112, 0x4100#112, 0x10100#112, 0x1000540#112, 0x11080#112, 0x21081#112,
        0x1000180#112].map decoded = List.replicate 11 none := by decide

theorem test_table_word : decodeTableWord 16 0x2C0 = some .timerReset ∧ decodeTableWord 16 0x0FF = none := by decide

/-! ## EventRegisterBlock (95_test_vectors.md 2.1) -/

theorem test_erb_reads :
    returns (.erbReadStatus .uart) (uartAt 3#32 2#32 1#32 base) = some (.word 3#32)
      ∧ returns (.erbReadPending .uart) (uartAt 3#32 2#32 1#32 base) = some (.word 2#32)
      ∧ returns (.erbReadEnable .uart) (uartAt 3#32 2#32 1#32 base) = some (.word 1#32) := by decide

theorem test_erb_irq_level :
    returns (.erbIrqLevel .uart) (uartAt 3#32 2#32 1#32 base) = some (.flag true)
      ∧ returns (.erbIrqLevel .uart) (uartAt 3#32 2#32 1#32 baseA) = some (.flag false) := by decide

/-- V-ERB-1, 3, 5, 6, 19. -/
theorem test_erb_set_enable_B :
    uartAfter (.erbSetEnable .uart 3#32) (uartAt 1#32 0#32 0#32 base) = some ⟨1#32, 1#32, 3#32, true, 1#32⟩
      ∧ uartAfter (.erbSetEnable .uart 3#32) (uartAt 1#32 0#32 3#32 base) = some ⟨1#32, 0#32, 3#32, false, 0#32⟩
      ∧ uartAfter (.erbSetEnable .uart 1#32) (uartAt 3#32 2#32 3#32 base) = some ⟨3#32, 0#32, 1#32, false, 0#32⟩
      ∧ uartAfter (.erbSetEnable .uart 3#32) (uartAt 3#32 0#32 1#32 base) = some ⟨3#32, 2#32, 3#32, true, 1#32⟩
      ∧ uartAfter (.erbSetEnable .uart 0#32) (uartAt 3#32 3#32 3#32 base) = some ⟨3#32, 0#32, 0#32, false, 0#32⟩ := by decide

/-- V-ERB-9, 11, 20, 16. -/
theorem test_erb_set_enable_other :
    uartAfter (.erbSetEnable .uart 3#32) (uartAt 1#32 0#32 3#32 { base with cfg := cfgOf .B .allEnabled })
        = some ⟨1#32, 1#32, 3#32, true, 1#32⟩
      ∧ uartAfter (.erbSetEnable .uart 2#32) (uartAt 3#32 2#32 0#32 baseA) = some ⟨3#32, 2#32, 2#32, true, 1#32⟩
      ∧ uartAfter (.erbSetEnable .uart 0#32) (uartAt 3#32 3#32 3#32 baseA) = some ⟨3#32, 3#32, 0#32, false, 0#32⟩
      ∧ timerAfter (.erbSetEnable .timer 0xFFFFFFFF#32) base = some ⟨0#32, 0#32, 1#32, false, 0#32⟩ := by decide

/-- V-ERB-2, 18, 22, 15. -/
theorem test_erb_clear_pending_plain :
    uartAfter (.erbClearPending .uart 1#32) (uartAt 1#32 1#32 3#32 base) = some ⟨1#32, 0#32, 3#32, false, 0#32⟩
      ∧ uartAfter (.erbClearPending .uart 0#32) (uartAt 3#32 3#32 3#32 base) = some ⟨3#32, 3#32, 3#32, true, 1#32⟩
      ∧ uartAfter (.erbClearPending .uart 0xFFFFFFFC#32) (uartAt 1#32 0#32 3#32 base) = some ⟨1#32, 0#32, 3#32, false, 0#32⟩
      ∧ timerAfter (.erbClearPending .timer 1#32) (timerAt 1#32 1#32 1#32 base) = some ⟨1#32, 0#32, 1#32, false, 0#32⟩ := by
  decide

/-- V-ERB-12, 13, 14, 17, 21. -/
theorem test_erb_clear_pending_relatch :
    uartAfter (.erbClearPending .uart 2#32) (uartAt 3#32 2#32 2#32 baseA) = some ⟨3#32, 2#32, 2#32, true, 1#32⟩
      ∧ uartAfter (.erbClearPending .uart 2#32) (uartAt 1#32 2#32 2#32 baseA) = some ⟨1#32, 0#32, 2#32, false, 0#32⟩
      ∧ uartAfter (.erbClearPending .uart 3#32) (uartAt 1#32 3#32 1#32 baseA) = some ⟨1#32, 1#32, 1#32, true, 1#32⟩
      ∧ uartAfter (.erbClearPending .uart 1#32) (uartAt 1#32 0#32 1#32 baseA) = some ⟨1#32, 0#32, 1#32, false, 0#32⟩
      ∧ uartAfter (.erbClearPending .uart 3#32) (uartAt 3#32 3#32 0#32 baseA) = some ⟨3#32, 0#32, 0#32, false, 0#32⟩ := by decide

/-- V-ERB-4, 7, 10, 23, 24. -/
theorem test_erb_signal_event :
    uartAfter (.erbSignalEvent .uart 1) (uartAt 1#32 0#32 3#32 base) = some ⟨3#32, 2#32, 3#32, true, 1#32⟩
      ∧ uartAfter (.erbSignalEvent .uart 0) (uartAt 1#32 0#32 0#32 base) = some ⟨1#32, 0#32, 0#32, false, 0#32⟩
      ∧ uartAfter (.erbSignalEvent .uart 1) (uartAt 1#32 0#32 0#32 baseA) = some ⟨3#32, 2#32, 0#32, false, 0#32⟩
      ∧ uartAfter (.erbSignalEvent .uart 1) (uartAt 3#32 2#32 3#32 base) = some ⟨3#32, 2#32, 3#32, true, 1#32⟩
      ∧ uartAfter (.erbSignalEvent .uart 1) (uartAt 3#32 0#32 3#32 base) = some ⟨3#32, 2#32, 3#32, true, 1#32⟩ := by decide

theorem test_erb_signal_event_undefined :
    refusalOf (exec (.erbSignalEvent .uart 2) base) = some .undefinedEvent
      ∧ refusalOf (exec (.erbSignalEvent .timer 1) base) = some .undefinedEvent := by decide

/-- V-ERB-8. -/
theorem test_erb_clear_status :
    uartAfter (.erbClearStatus .uart 2#32) (uartAt 3#32 2#32 3#32 base) = some ⟨1#32, 2#32, 3#32, true, 1#32⟩ := by decide

/-! ## UART (95_test_vectors.md 2.2) -/

/-- V-UART-1, and V-UART-6 and V-UART-11 for RXEMPTY. -/
theorem test_uart_txfull :
    returns (.uartRdTxfull 4) base = some (.word 0#32)
      ∧ returns (.uartRdTxfull 4) (uartAt 0#32 0#32 0#32 base) = some (.word 1#32) := by decide
theorem test_uart_txempty :
    returns (.uartRdTxempty 4) base = some (.word 1#32)
      ∧ returns (.uartRdTxempty 4) (uartAt 2#32 0#32 0#32 base) = some (.word 0#32) := by decide
theorem test_uart_rxempty :
    returns (.uartRdRxempty 4) base = some (.word 1#32)
      ∧ returns (.uartRdRxempty 4) (uartAt 3#32 3#32 3#32 base) = some (.word 0#32)
      ∧ returns (.uartRdRxempty 4) (uartAt 3#32 0#32 0#32 base) = some (.word 1#32) := by decide
theorem test_uart_rxfull :
    returns (.uartRdRxfull 4) base = some (.word 0#32)
      ∧ returns (.uartRdRxfull 4) (uartAt 3#32 0#32 0#32 base) = some (.word 1#32) := by decide
theorem test_uart_event_reads :
    returns (.uartRdEvStatus 4) (uartAt 3#32 2#32 1#32 base) = some (.word 3#32)
      ∧ returns (.uartRdEvPending 4) (uartAt 3#32 2#32 1#32 base) = some (.word 2#32)
      ∧ returns (.uartRdEvEnable 4) (uartAt 3#32 2#32 1#32 base) = some (.word 1#32) := by decide
theorem test_uart_can_accept :
    returns .uartInCanAcceptByte base = some (.flag true)
      ∧ returns .uartInCanAcceptByte (uartAt 3#32 3#32 3#32 base) = some (.flag false) := by decide

/-- V-UART-7. -/
theorem test_uart_rxtx_read :
    uartAfter (.uartRdRxtx 4) (uartAt 3#32 3#32 3#32 base) = some ⟨1#32, 3#32, 3#32, true, 1#32⟩ := by decide
theorem test_uart_rxtx_read_value :
    returns (.uartRdRxtx 1) { base with uart := { base.uart with rx := 0xA5#8 } } = some (.word 0xA5#32) := by decide

/-- V-UART-2, V-UART-5, V-UART-13. -/
theorem test_uart_rxtx_write :
    uartAfter (.uartWrRxtx 4 0x41#32) base = some ⟨1#32, 0#32, 0#32, false, 0#32⟩
      ∧ uartAfter (.uartWrRxtx 4 0x142#32) (uartAt 1#32 0#32 3#32 base) = some ⟨1#32, 1#32, 3#32, true, 1#32⟩
      ∧ uartAfter (.uartWrRxtx 4 0x41#32) baseA = some ⟨1#32, 1#32, 0#32, false, 0#32⟩ := by decide
theorem test_uart_rxtx_write_sends :
    (nextOf (exec (.uartWrRxtx 4 0x142#32) { base with txlog := [0x41#8] })).map (·.txlog) = some [0x41#8, 0x42#8] := by decide

/-- V-UART-3, V-UART-14. -/
theorem test_uart_ev_enable :
    uartAfter (.uartWrEvEnable 4 3#32) base = some ⟨1#32, 1#32, 3#32, true, 1#32⟩
      ∧ uartAfter (.uartWrEvEnable 1 0xFF#32) base = some ⟨1#32, 1#32, 3#32, true, 1#32⟩ := by decide

/-- V-UART-4, V-UART-8. -/
theorem test_uart_ev_pending :
    uartAfter (.uartWrEvPending 4 1#32) (uartAt 1#32 1#32 3#32 base) = some ⟨1#32, 0#32, 3#32, false, 0#32⟩
      ∧ uartAfter (.uartWrEvPending 4 2#32) (uartAt 1#32 3#32 3#32 base) = some ⟨1#32, 1#32, 3#32, true, 1#32⟩ := by decide

/-- V-UART-6, V-UART-11. -/
theorem test_uart_byte :
    uartAfter (.uartInByteReceived 0x5A#8) (uartAt 1#32 1#32 3#32 base) = some ⟨3#32, 3#32, 3#32, true, 1#32⟩
      ∧ uartAfter (.uartInByteReceived 0x33#8) base = some ⟨3#32, 0#32, 0#32, false, 0#32⟩ := by decide
theorem test_uart_byte_overwrites :
    (nextOf (exec (.uartInByteReceived 0x22#8) { base with uart := { base.uart with rx := 0x11#8 } })).map (·.uart.rx)
      = some 0x22#8 := by decide

/-- V-UART-12, V-UART-16: nothing changes. -/
theorem test_uart_ignored_writes :
    [Instr.uartWrTxfull 4 1#32, .uartWrRxempty 4 1#32, .uartWrEvStatus 4 0#32, .uartWrTxempty 4 0#32, .uartWrRxfull 4 0#32,
        .uartWrOther 0x24 4 1#32].map (fun i => uartAfter i (uartAt 3#32 0#32 0#32 base))
      = List.replicate 6 (some ⟨3#32, 0#32, 0#32, false, 0#32⟩) := by decide
theorem test_uart_other_read : returns (.uartRdOther 0x02 4) (uartAt 3#32 3#32 3#32 base) = some (.word 0#32) := by decide

/-- V-RST-1. -/
theorem test_uart_reset :
    uartAfter .uartReset { uartAt 3#32 3#32 3#32 base with intc := { base.intc with pendingBits := 1#32 } }
      = some ⟨1#32, 0#32, 0#32, false, 0#32⟩ := by decide

/-- 20_memory.md R45: widths 0 and 5. -/
theorem test_width_refused :
    refusalOf (exec (.uartRdRxtx 0) base) = some .accessWidth
      ∧ refusalOf (exec (.timerWrEnStart 5 1#32) base) = some .accessWidth := by decide

/-! ## Timer (95_test_vectors.md 2.3) -/

/-- V-TMR-11. -/
theorem test_timer_load_read :
    returns (.timerRdLoad 1) (counting 0x12345678#32 0#32 0#32 false false base) = some (.word 0x78#32)
      ∧ returns (.timerRdLoad 2) (counting 0x12345678#32 0#32 0#32 false false base) = some (.word 0x5678#32)
      ∧ returns (.timerRdLoad 3) (counting 0x12345678#32 0#32 0#32 false false base) = some (.word 0x345678#32) := by decide
theorem test_timer_load_write :
    (nextOf (exec (.timerWrLoad 1 0x64#32) (counting 0x12345678#32 0#32 0#32 false false base))).map (·.timer.load)
      = some 0x64#32 := by decide
theorem test_timer_reload_read :
    returns (.timerRdReload 4) (counting 1#32 9#32 3#32 true false base) = some (.word 9#32) := by decide
/-- V-TMR-5: the count under way stays. -/
theorem test_timer_reload_write :
    engineAfter (.timerWrReload 4 5#32) (counting 0#32 2#32 2#32 true false base) = some ⟨2#32, true, false, true, 0#32⟩ := by
  decide
/-- V-TMR-2: enabled stays 1 after the run ended. -/
theorem test_timer_en_read :
    returns (.timerRdEn 4) (counting 3#32 0#32 0#32 false true base) = some (.word 1#32)
      ∧ returns (.timerRdEn 4) base = some (.word 0#32) := by decide
theorem test_timer_update_value_read :
    returns (.timerRdUpdateValue 4) (counting 7#32 0#32 7#32 true true base) = some (.word 0#32) := by decide
theorem test_timer_value_read :
    returns (.timerRdValue 4) { base with timer := { base.timer with value := 2#32, counter := 9#32 } } = some (.word 2#32) := by
  decide
theorem test_timer_event_reads :
    returns (.timerRdEvStatus 4) (timerAt 1#32 0#32 0#32 base) = some (.word 1#32)
      ∧ returns (.timerRdEvPending 4) (timerAt 0#32 1#32 0#32 base) = some (.word 1#32)
      ∧ returns (.timerRdEvEnable 4) (timerAt 0#32 0#32 1#32 base) = some (.word 1#32)
      ∧ returns (.timerRdOther 0x06 4) (timerAt 1#32 1#32 1#32 base) = some (.word 0#32) := by decide
/-- V-TMR-2, V-TMR-3, V-TMR-6. -/
theorem test_timer_start :
    engineAfter (.timerWrEnStart 4 1#32) (counting 3#32 0#32 0#32 false false base) = some ⟨3#32, true, true, true, 0#32⟩
      ∧ engineAfter (.timerWrEnStart 4 1#32) (counting 0#32 2#32 0#32 false true base) = some ⟨2#32, true, false, true, 0#32⟩
      ∧ engineAfter (.timerWrEnStart 4 1#32) (counting 3#32 0#32 2#32 true true base) = some ⟨3#32, true, true, true, 0#32⟩ := by
  decide
/-- V-TMR-7. -/
theorem test_timer_start_zero : refusalOf (exec (.timerWrEnStart 4 1#32) base) = some .timerCountZero := by decide
/-- V-TMR-4. -/
theorem test_timer_stop :
    engineAfter (.timerWrEnStop 4 0#32) (counting 0#32 2#32 1#32 true false base) = some ⟨1#32, false, false, false, 0#32⟩ := by
  decide
theorem test_timer_update_value :
    engineAfter (.timerWrUpdateValue 4 0#32) (counting 3#32 0#32 2#32 true true base) = some ⟨2#32, true, true, true, 2#32⟩ := by
  decide
/-- V-TMR-10, V-TMR-13. -/
theorem test_timer_ignored_writes :
    [Instr.timerWrValue 4 5#32, .timerWrEvStatus 4 0#32, .timerWrOther 0x06 4 1#32].map
        (fun i => engineAfter i (counting 7#32 0#32 7#32 true true base))
      = List.replicate 3 (some ⟨7#32, true, true, true, 0#32⟩) := by decide
/-- V-TMR-2b. -/
theorem test_timer_ev_enable :
    timerAfter (.timerWrEvEnable 4 1#32) (timerAt 1#32 1#32 0#32 base) = some ⟨1#32, 1#32, 1#32, true, 2#32⟩ := by decide
theorem test_timer_ev_pending :
    timerAfter (.timerWrEvPending 4 1#32) (timerAt 1#32 1#32 1#32 base) = some ⟨1#32, 0#32, 1#32, false, 0#32⟩ := by decide
/-- V-TMR-1, V-TMR-2 (third tick), V-TMR-3 (second tick). -/
theorem test_timer_tick :
    engineAfter .timerInTick base = some ⟨0#32, false, false, false, 0#32⟩
      ∧ engineAfter .timerInTick (counting 3#32 0#32 3#32 true true base) = some ⟨2#32, true, true, true, 0#32⟩
      ∧ engineAfter .timerInTick (counting 3#32 0#32 1#32 true true base) = some ⟨0#32, false, true, true, 0#32⟩
      ∧ engineAfter .timerInTick (counting 0#32 2#32 1#32 true false base) = some ⟨2#32, true, false, true, 0#32⟩ := by decide
theorem test_timer_tick_event :
    timerAfter .timerInTick (timerAt 0#32 0#32 1#32 (counting 0#32 2#32 1#32 true false base))
        = some ⟨1#32, 1#32, 1#32, true, 2#32⟩
      ∧ timerAfter .timerInTick (counting 3#32 0#32 1#32 true true base) = some ⟨1#32, 1#32, 0#32, false, 0#32⟩ := by decide
theorem test_timer_underflow :
    timerAfter .timerInUnderflow (counting 0#32 2#32 0#32 true false base) = some ⟨1#32, 1#32, 0#32, false, 0#32⟩
      ∧ refusalOf (exec .timerInUnderflow base) = some .timerCountZero := by decide
/-- V-RST-2. -/
theorem test_timer_reset :
    (nextOf (exec .timerReset
        { timerAt 1#32 1#32 1#32 (counting 0#32 9#32 7#32 true false base) with intc := { base.intc with pendingBits := 2#32 } })).map
          (fun t => (t.timer, t.intc.pendingBits)) = some (base.timer, 0#32) := by decide

/-- 70_reset_and_hazards.md R234: a pending bit lost by a reset of the controller alone comes back at the timer's next mutating
operation, and not at a tick that changes nothing. -/
theorem test_timer_redrive :
    [Instr.timerWrLoad 4 1#32, .timerWrReload 4 1#32, .timerWrEnStop 4 0#32, .timerWrUpdateValue 4 0#32, .timerInTick].map
        (fun i => (timerAfter i (timerAt 1#32 1#32 1#32 (counting 0#32 2#32 2#32 true false base))).map (·.pendingBits))
      = List.replicate 5 (some 2#32)
      ∧ (timerAfter .timerInTick (timerAt 1#32 1#32 1#32 base)).map (·.pendingBits) = some 0#32 := by decide

/-! ## Interrupt controller (95_test_vectors.md 2.4) -/

theorem test_intc_enable_reads :
    returns .intcRdMIrqEnable { base with intc := { base.intc with mEnableBits := 8#32 } } = some (.word 8#32)
      ∧ returns .intcRdSIrqEnable { base with intc := { base.intc with sEnableBits := 0x20#32 } } = some (.word 0x20#32) := by
  decide
/-- V-INTC-5: unmasked and equal. -/
theorem test_intc_pending_reads :
    returns .intcRdMIrqPending { base with intc := { base.intc with pendingBits := 8#32 } } = some (.word 8#32)
      ∧ returns .intcRdSIrqPending { base with intc := { base.intc with pendingBits := 8#32 } } = some (.word 8#32) := by decide
/-- V-INTC-2. -/
theorem test_intc_request :
    intcAfter (.intcInRequest 3 true) { base with intc := { base.intc with mEnableBits := 8#32 } }
        = some { pendingBits := 8#32, mEnableBits := 8#32, sEnableBits := 0#32, mOut := true, sOut := false }
      ∧ intcAfter (.intcInRequest 3 false)
          { base with intc := { base.intc with pendingBits := 8#32, mEnableBits := 8#32, mOut := true } }
        = some { pendingBits := 0#32, mEnableBits := 8#32, sEnableBits := 0#32, mOut := false, sOut := false } := by decide
/-- V-INTC-6, V-INTC-8. -/
theorem test_intc_request_edge :
    intcAfter (.intcInRequest 31 true) base
        = some { pendingBits := 0x80000000#32, mEnableBits := 0#32, sEnableBits := 0#32, mOut := false, sOut := false }
      ∧ refusalOf (exec (.intcInRequest 32 true) base) = some .noSuchLine := by decide
/-- V-INTC-3. -/
theorem test_intc_enable_writes :
    intcAfter (.intcWrSIrqEnable 0x20#32) { base with intc := { base.intc with pendingBits := 0x20#32 } }
        = some { pendingBits := 0x20#32, mEnableBits := 0#32, sEnableBits := 0x20#32, mOut := false, sOut := true }
      ∧ intcAfter (.intcWrMIrqEnable 0x20#32) { base with intc := { base.intc with pendingBits := 0x20#32 } }
        = some { pendingBits := 0x20#32, mEnableBits := 0x20#32, sEnableBits := 0#32, mOut := true, sOut := false } := by decide
theorem test_intc_pending_writes :
    intcAfter (.intcWrMIrqPending 0#32) { base with intc := { base.intc with pendingBits := 8#32 } }
        = some { base.intc with pendingBits := 8#32 }
      ∧ intcAfter (.intcWrSIrqPending 0#32) { base with intc := { base.intc with pendingBits := 8#32 } }
        = some { base.intc with pendingBits := 8#32 } := by decide
/-- V-RST-3. -/
theorem test_intc_reset :
    intcAfter .intcReset
        { base with intc := { pendingBits := 0x28#32, mEnableBits := 8#32, sEnableBits := 0x20#32, mOut := true, sOut := true } }
      = some base.intc := by decide
/-- V-RST-5. -/
theorem test_sys_reset :
    (nextOf (exec .sysReset
        { uartAt 3#32 3#32 3#32 (counting 5#32 9#32 7#32 true false base) with
          intc := { pendingBits := 1#32, mEnableBits := 1#32, sEnableBits := 0#32, mOut := true, sOut := false } })).map
          (fun t => (t.uart.block, t.uart.irqOut, t.timer, t.intc))
      = some (base.uart.block, false, base.timer, base.intc) := by decide

/-! ## The step -/

/-- V-INTC-10: the bus write of UART EV_ENABLE reaches m_out in one step. -/
theorem test_step_bus_write :
    (nextOf (step { base with inbox := [.memWrite 0x14 4 1#32], intc := { base.intc with mEnableBits := 1#32 } })).map
        (fun t => (t.uart.block, t.uart.irqOut, t.intc.pendingBits, t.intc.mOut, t.inbox))
      = some ({ status := 1#32, pending := 1#32, enable := 1#32 }, true, 1#32, true, []) := by decide
theorem test_step_fetch_refused :
    refusalOf (step { base with inbox := [.instrFetch 0x1FF] }) = some .instructionFetch := by decide
theorem test_step_fetch_word :
    (nextOf (step (base.withFetchWord 16 0x104))).map (·.result) = some (.word 0#32) := by decide
/-- 30_encoding.md R60, R64: no agent issues an underflow or a triplet operation; a pending call runs one. -/
theorem test_step_internal :
    refusalOf (step { base with inbox := [.operation 0x281#112] }) = some .wrongCaller
      ∧ refusalOf (step { base with inbox := [.operation 0x10081#112] }) = some .wrongCaller
      ∧ (nextOf (step (base.withFetchWord 24 0x10081))).map (fun t => (t.uart.block.status, t.call)) = some (0#32, none) := by
  decide

/-! ## Witnesses: for each statement with hypotheses, operands and a state that meet all of them -/

theorem witness_EncodedOperationDecodes :
    (Instr.uartWrOther 0x20 1 0xFF#32).wellFormed = true ∧ (Instr.uartRdOther (2 ^ 70 - 1) 4).wellFormed = true
      ∧ (Instr.intcInRequest (2 ^ 32 - 1) true).wellFormed = true ∧ (Instr.timerWrEnStart 1 0xFF#32).wellFormed = true := by decide

theorem witness_DecodedWordIsItsEncoding : decode 0x32380#112 = .ok (.intcInRequest 3 true) := by decide

theorem witness_StepRunsDecodedOperation :
    ({ base with inbox := [.operation 0x30240#112, .memRead 0 4] }).inbox = .operation 0x30240#112 :: [.memRead 0 4]
      ∧ base.call = none ∧ decode 0x30240#112 = .ok (.timerWrLoad 4 3#32) ∧ internal (.timerWrLoad 4 3#32) = false
      ∧ ({ base with call := some 0x10081#112 }).call = some 0x10081#112
      ∧ decode 0x10081#112 = .ok (.erbClearStatus .uart 1#32) ∧ internal (.erbClearStatus .uart 1#32) = true := by decide

theorem witness_BusAccessSelectsRegister :
    base.call = none ∧ base.cfg.legal = true ∧ 0 < base.cfg.wiring.windowSize ∧ 0xFF < base.cfg.wiring.windowSize
      ∧ ¬0x100 < base.cfg.wiring.windowSize := by decide

theorem witness_RegisterOffsetsMatchExactly :
    [0x01, 0x03, 0x1D, 0x20, 0x100].all (· ∉ [0x00, 0x04, 0x08, 0x0C, 0x10, 0x14, 0x18, 0x1C]) = true := by decide

theorem witness_PseudoNumberSelectsRegister : base.call = none ∧ base.cfg.legal = true ∧ baseA.cfg.legal = true := by decide

theorem witness_StimulusOutsideTheBlockChangesNothing :
    base.call = none ∧ base.inbox = []
      ∧ (∀ off < base.cfg.wiring.windowSize, 0x200 ≠ base.cfg.wiring.uartBase + off ∧ 0x200 ≠ base.cfg.wiring.timerBase + off)
      ∧ 4 ∉ [base.cfg.wiring.mIrqEnableId, base.cfg.wiring.mIrqPendingId, base.cfg.wiring.sIrqEnableId,
          base.cfg.wiring.sIrqPendingId]
      ∧ Stimulus.memRead 0x200 4 ∈ [Stimulus.memRead 0x200 4, .memWrite 0x200 4 0#32, .instrFetch 0x200]
      ∧ Stimulus.pseudoWrite 4 0#32 ∈ [Stimulus.pseudoRead 4, .pseudoWrite 4 0#32] := by
  refine ⟨rfl, rfl, ?_, by decide, by decide, by decide⟩
  intro off h
  have h' : off < 0x100 := h
  show 0x200 ≠ 0 + off ∧ 0x200 ≠ 0x100 + off
  omega

theorem witness_InstructionFetchIsRefused :
    base.call = none ∧ 0 < base.cfg.wiring.windowSize ∧ 0xFF < base.cfg.wiring.windowSize := by decide

theorem witness_AccessWidthIsOneToFour :
    refusalOf (exec (.timerRdValue 0) base) = some .accessWidth ∧ refusalOf (exec (.timerRdValue 5) base) = some .accessWidth
      ∧ refusalOf (exec (.timerRdValue 1) base) = none ∧ refusalOf (exec (.timerRdValue 4) base) = none := by decide

/-- Each of the four situations, and an operation that completes. -/
theorem witness_WellFormedOperationsCompleteOrAreRefused :
    (Instr.timerWrEnStart 4 1#32).wellFormed = true ∧ nextOf (exec (.timerWrEnStart 4 1#32) base) = none
      ∧ nextOf (exec .timerInTick (counting 0#32 0#32 1#32 true false base)) = none
      ∧ nextOf (exec .timerInUnderflow base) = none
      ∧ nextOf (exec (.intcInRequest 32 false) base) = none
      ∧ (nextOf (exec (.intcInRequest 31 false) base)).isSome = true := by decide

theorem base_inv : base.Inv := by decide
theorem baseA_inv : baseA.Inv := by decide

/-- A lawful state with an inbox of the environment. -/
def busy : State := { base with inbox := [.operation 0x680180#112, .memWrite 0x14 4 3#32, .pseudoWrite 0 1#32] }

theorem witness_StepKeepsInvariant : busy.Inv ∧ ∃ t, step busy = .next t := ⟨by decide, _, rfl⟩

theorem witness_ConstructionEstablishesInvariant :
    (cfgOf .A .allEnabled).legal = true ∧ ({ cfgOf .B .allEnabled with uartResetPending := 1#32 }).legal = false := by decide

theorem witness_EveryReachableStateIsLawful :
    (cfgOf .B .newlyEnabled).legal = true
      ∧ (∀ x ∈ busy.inbox, x.external (cfgOf .B .newlyEnabled).wiring = true
          ∧ x.resetsIntcAlone (cfgOf .B .newlyEnabled).wiring = false)
      ∧ ∃ t, Host.Core.run Sys2Proof.core 3 { State.initial (cfgOf .B .newlyEnabled) with inbox := busy.inbox } = .next t :=
  ⟨by decide, by decide, _, rfl⟩

theorem witness_TripletBitsStayInsideEventMask :
    (cfgOf .B .newlyEnabled).legal = true ∧ busy.cfg.legal = true ∧ busy.TripletsInside ∧ ∃ t, step busy = .next t :=
  ⟨by decide, by decide, by decide, _, rfl⟩

theorem witness_PendingStaysInsideEnableInModeB :
    (cfgOf .B .newlyEnabled).uartMode = .B ∧ (cfgOf .B .newlyEnabled).uartResetPending = 0#32
      ∧ busy.cfg.uartMode = .B ∧ busy.cfg.uartResetPending = 0#32 ∧ busy.PendingFolded ∧ ∃ t, step busy = .next t :=
  ⟨rfl, rfl, rfl, rfl, by decide, _, rfl⟩

theorem witness_LinesAndOutputsFollowTheirRegisters :
    (cfgOf .A .newlyEnabled).legal = true ∧ busy.LinesFollowLevels ∧ busy.intc.OutputsFollowMasks ∧ ∃ t, step busy = .next t :=
  ⟨by decide, by decide, by decide, _, rfl⟩

theorem witness_RunningTimerHasNonzeroCounter :
    (counting 0#32 2#32 1#32 true false { base with inbox := [.operation 0x280#112] }).RunningCounts
      ∧ ∃ t, step (counting 0#32 2#32 1#32 true false { base with inbox := [.operation 0x280#112] }) = .next t :=
  ⟨by decide, _, rfl⟩

theorem witness_TxStatusIsConstant : busy.InboxExternal ∧ busy.TxReady ∧ ∃ t, step busy = .next t :=
  ⟨by decide, by decide, _, rfl⟩

/-- A reset, the tick that reaches 0, and an operation that does neither. -/
theorem witness_ZeroStatusIsSticky :
    external base.cfg.wiring .timerReset = true ∧ external base.cfg.wiring .timerInTick = true
      ∧ external base.cfg.wiring (.timerWrEvPending 4 1#32) = true
      ∧ (∃ t, exec .timerReset base = .next t)
      ∧ (∃ t, exec .timerInTick (counting 0#32 2#32 1#32 true false base) = .next t)
      ∧ ∃ t, exec (.timerWrEvPending 4 1#32) (timerAt 1#32 1#32 1#32 base) = .next t :=
  ⟨by decide, by decide, by decide, ⟨_, rfl⟩, ⟨_, rfl⟩, _, rfl⟩

theorem witness_InterruptPathStaysClosed :
    busy.cfg.legal = true ∧ busy.InboxExternal ∧ busy.InboxKeepsPath ∧ busy.PathClosed ∧ ∃ t, step busy = .next t :=
  ⟨by decide, by decide, by decide, by decide, _, rfl⟩

/-- The second clause: an operation of each peripheral, and a tick of a running engine. -/
theorem witness_InterruptPathStaysClosed_restored :
    base.cfg.legal = true ∧ touchesUart (.uartRdRxtx 4) = true ∧ touchesTimer .timerInTick = true
      ∧ (counting 0#32 2#32 2#32 true false base).timer.running = true ∧ touchesTimer (.timerWrLoad 4 1#32) = true
      ∧ (∃ t, exec (.uartRdRxtx 4) base = .next t)
      ∧ (∃ t, exec .timerInTick (counting 0#32 2#32 2#32 true false base) = .next t)
      ∧ ∃ t, exec (.timerWrLoad 4 1#32) base = .next t :=
  ⟨by decide, rfl, rfl, rfl, rfl, ⟨_, rfl⟩, ⟨_, rfl⟩, _, rfl⟩

/-- Line 31 at the edge: a request on it, a reset, and an operation that does not touch it. -/
theorem witness_OtherLinesHoldTheLastLevelDelivered :
    31 < 32 ∧ 31 ≠ base.cfg.wiring.uartIrqLine ∧ 31 ≠ base.cfg.wiring.timerIrqLine
      ∧ (∃ t, exec (.intcInRequest 31 true) base = .next t) ∧ (∃ t, exec .intcReset base = .next t)
      ∧ ∃ t, exec (.uartInByteReceived 1#8) base = .next t :=
  ⟨by decide, by decide, by decide, ⟨_, rfl⟩, ⟨_, rfl⟩, _, rfl⟩

/-- With a stimulus taken, and with a call taken. -/
theorem witness_StepKeepsConfiguration :
    (busy.call = none ∧ ∃ t, step busy = .next t)
      ∧ ({ base with call := some 0x10081#112 }).call = some 0x10081#112
      ∧ ∃ t, step { base with call := some 0x10081#112 } = .next t :=
  ⟨⟨rfl, _, rfl⟩, rfl, _, rfl⟩

theorem witness_ReadsChangeNothing :
    changesNothing (.uartRdRxempty 4) = true ∧ changesNothing (.timerWrValue 4 5#32) = true
      ∧ (∃ t, exec (.uartRdRxempty 4) base = .next t) ∧ ∃ t, exec (.timerWrValue 4 5#32) base = .next t :=
  ⟨rfl, rfl, ⟨_, rfl⟩, _, rfl⟩

theorem witness_PeripheralsAreIsolated :
    touchesUart (.timerWrLoad 4 3#32) = false ∧ touchesTimer (.uartWrRxtx 4 0x41#32) = false
      ∧ (∃ t, exec (.timerWrLoad 4 3#32) base = .next t) ∧ ∃ t, exec (.uartWrRxtx 4 0x41#32) base = .next t :=
  ⟨rfl, rfl, ⟨_, rfl⟩, _, rfl⟩

/-- A write of each mask, each reset, and an operation that is none of these. -/
theorem witness_EnableMasksChangeOnlyByTheirOwnWrites :
    (∃ t, exec (.intcWrMIrqEnable 1#32) base = .next t) ∧ (∃ t, exec (.intcWrSIrqEnable 2#32) base = .next t)
      ∧ (∃ t, exec .intcReset base = .next t) ∧ (∃ t, exec .sysReset base = .next t) ∧ ∃ t, exec .uartReset base = .next t :=
  ⟨⟨_, rfl⟩, ⟨_, rfl⟩, ⟨_, rfl⟩, ⟨_, rfl⟩, _, rfl⟩

theorem witness_BytesLeaveOnlyByRxtxWrites :
    (∃ t, exec (.uartWrRxtx 1 0x41#32) base = .next t) ∧ ∃ t, exec .sysReset base = .next t := ⟨⟨_, rfl⟩, _, rfl⟩

/-- A received byte, the three operations that clear RX, and one that keeps it. -/
theorem witness_RxStatusFollowsTheReceiveCell :
    external base.cfg.wiring (.uartInByteReceived 1#8) = true ∧ external base.cfg.wiring (.uartRdRxtx 4) = true
      ∧ external base.cfg.wiring .uartReset = true ∧ external base.cfg.wiring .sysReset = true
      ∧ external base.cfg.wiring (.uartWrEvPending 4 3#32) = true
      ∧ (∃ t, exec (.uartInByteReceived 1#8) base = .next t) ∧ (∃ t, exec (.uartRdRxtx 4) base = .next t)
      ∧ (∃ t, exec .uartReset base = .next t) ∧ (∃ t, exec .sysReset base = .next t)
      ∧ ∃ t, exec (.uartWrEvPending 4 3#32) (uartAt 3#32 3#32 3#32 base) = .next t :=
  ⟨rfl, rfl, rfl, rfl, rfl, ⟨_, rfl⟩, ⟨_, rfl⟩, ⟨_, rfl⟩, ⟨_, rfl⟩, _, rfl⟩

/-- The bits at the edges of the clauses: 0 and 1 are events of the UART and 2 is none; 0 is one of the timer and 1 is none. -/
theorem witness_SignalledEventIsLatchedByMode :
    (nextOf (exec (.erbSignalEvent .uart 0) base)).isSome = true ∧ (nextOf (exec (.erbSignalEvent .uart 1) base)).isSome = true
      ∧ (nextOf (exec (.erbSignalEvent .timer 0) base)).isSome = true
      ∧ refusalOf (exec (.erbSignalEvent .uart 2) base) = some .undefinedEvent
      ∧ refusalOf (exec (.erbSignalEvent .timer 1) base) = some .undefinedEvent := by decide

/-- Both disjuncts of the premise: all_enabled, and the default with nothing active, enabled and not pending. -/
theorem witness_EnableWriteLawOfModeB :
    base.cfg.uartMode = .B ∧ (∃ t, exec (.erbSetEnable .uart 3#32) base = .next t)
      ∧ base.uart.block.enable &&& (3#32 &&& 0x3#32) &&& base.uart.block.status &&& ~~~base.uart.block.pending = 0#32
      ∧ (cfgOf .B .allEnabled).enableRelatch = .allEnabled :=
  ⟨rfl, ⟨_, rfl⟩, by decide, rfl⟩

theorem witness_MomentaryEventIsRememberedInModeAOnly : baseA.cfg.uartMode = .A ∧ base.cfg.uartMode = .B := by decide

theorem witness_EnableWriteAndByteCommute :
    1 ≤ 1 ∧ 1 ≤ 4 ∧ (0xFF#32).toNat < 2 ^ (8 * 1) ∧ (0xFF#32).getLsbD 1 = true := by decide

theorem witness_ActiveEventCannotBeAcknowledgedInModeA :
    (uartAt 3#32 2#32 2#32 baseA).cfg.uartMode = .A
      ∧ (∃ t, exec (.uartWrEvPending 4 2#32) (uartAt 3#32 2#32 2#32 baseA) = .next t)
      ∧ (uartAt 3#32 2#32 2#32 baseA).uart.block.enable.getLsbD 1 = true
      ∧ (uartAt 3#32 2#32 2#32 baseA).uart.block.status.getLsbD 1 = true :=
  ⟨rfl, ⟨_, rfl⟩, by decide, by decide⟩

/-- The width and the data at both edges: the hypotheses of UartReadsWithoutSideEffect, RxtxReadReturnsHeldByte,
RxtxWriteSendsAndSignals, UartPendingWriteClears, UartEnableWriteReplaces, IgnoredWritesAndOtherOffsets, TimerReads,
TimerPlainWrites and TimerEventWrites. -/
theorem witness_width_and_data :
    1 ≤ 1 ∧ 1 ≤ 4 ∧ 4 ≤ 4 ∧ (0xFF#32).toNat < 2 ^ (8 * 1) ∧ ¬(0x100#32).toNat < 2 ^ (8 * 1)
      ∧ (0xFFFFFFFF#32).toNat < 2 ^ (8 * 4) := by decide

theorem witness_UartReadsWithoutSideEffect : 1 ≤ 1 ∧ 4 ≤ 4 ∧ (nextOf (exec (.uartRdRxfull 1) base)).isSome = true := by decide
theorem witness_RxtxReadReturnsHeldByte : 1 ≤ 1 ∧ 4 ≤ 4 ∧ (nextOf (exec (.uartRdRxtx 4) base)).isSome = true := by decide
theorem witness_RxtxWriteSendsAndSignals :
    1 ≤ 1 ∧ 1 ≤ 4 ∧ (0xFF#32).toNat < 2 ^ (8 * 1) ∧ (nextOf (exec (.uartWrRxtx 1 0xFF#32) base)).isSome = true := by decide

/-- Both forms of each statement about an event register of the UART. -/
theorem witness_UartPendingWriteClears :
    (Instr.uartWrEvPending 1 0xFF#32 = .uartWrEvPending 1 0xFF#32 ∧ 1 ≤ 1 ∧ 1 ≤ 4 ∧ (0xFF#32).toNat < 2 ^ (8 * 1)
        ∨ Instr.uartWrEvPending 1 0xFF#32 = .erbClearPending .uart 0xFF#32)
      ∧ (nextOf (exec (.uartWrEvPending 1 0xFF#32) base)).isSome = true
      ∧ (nextOf (exec (.erbClearPending .uart 0xFFFFFFFF#32) baseA)).isSome = true := by decide
theorem witness_UartEnableWriteReplaces :
    (Instr.uartWrEvEnable 1 0xFF#32 = .uartWrEvEnable 1 0xFF#32 ∧ 1 ≤ 1 ∧ 1 ≤ 4 ∧ (0xFF#32).toNat < 2 ^ (8 * 1)
        ∨ Instr.uartWrEvEnable 1 0xFF#32 = .erbSetEnable .uart 0xFF#32)
      ∧ (nextOf (exec (.uartWrEvEnable 1 0xFF#32) base)).isSome = true
      ∧ (nextOf (exec (.erbSetEnable .uart 0xFFFFFFFF#32) baseA)).isSome = true := by decide

theorem witness_IgnoredWritesAndOtherOffsets :
    1 ≤ 1 ∧ 4 ≤ 4
      ∧ Instr.timerWrOther 0x20 4 1#32 ∈ [Instr.uartWrTxfull 4 1#32, .uartWrRxempty 4 1#32, .uartWrEvStatus 4 1#32,
          .uartWrTxempty 4 1#32, .uartWrRxfull 4 1#32, .uartWrOther 0x20 4 1#32, .timerWrValue 4 1#32, .timerWrEvStatus 4 1#32,
          .timerWrOther 0x20 4 1#32] := by decide

theorem witness_UartResetBaseline : base.cfg.legal = true ∧ (nextOf (exec .uartReset base)).isSome = true := by decide

theorem witness_TimerReads : 1 ≤ 1 ∧ 4 ≤ 4 ∧ (nextOf (exec (.timerRdEn 1) base)).isSome = true := by decide
theorem witness_TimerPlainWrites :
    1 ≤ 1 ∧ 1 ≤ 4 ∧ (0xFF#32).toNat < 2 ^ (8 * 1) ∧ (nextOf (exec (.timerWrLoad 1 0xFF#32) base)).isSome = true := by decide

/-- Each of the three clauses: a staged LOAD of 1, none with RELOAD 1, and neither. -/
theorem witness_TimerStartChoosesTheMode :
    1 ≤ 1 ∧ 1 ≤ 4 ∧ (counting 1#32 0#32 0#32 false false base).timer.load ≠ 0#32
      ∧ (counting 0#32 1#32 0#32 false false base).timer.load = 0#32
      ∧ (counting 0#32 1#32 0#32 false false base).timer.reloadLimit ≠ 0#32
      ∧ base.timer.load = 0#32 ∧ base.timer.reloadLimit = 0#32 := by decide

theorem witness_TimerEventWrites :
    (Instr.timerWrEvPending 1 0xFF#32 = .timerWrEvPending 1 0xFF#32 ∧ 1 ≤ 1 ∧ 1 ≤ 4 ∧ (0xFF#32).toNat < 2 ^ (8 * 1)
        ∨ Instr.timerWrEvPending 1 0xFF#32 = .erbClearPending .timer 0xFF#32)
      ∧ (timerAt 1#32 1#32 1#32 base).TripletsInside ∧ (0xFF#32).getLsbD 0 = true
      ∧ (nextOf (exec (.erbSetEnable .timer 1#32) base)).isSome = true := by decide

/-- Each of the four clauses: stopped; a count of 2; a count of 1 with an end of the run, and with a reload of 1; a reload of
0. -/
theorem witness_TickCountsDownAndUnderflows :
    base.timer.running = false
      ∧ ((counting 0#32 1#32 2#32 true false base).timer.running = true
          ∧ 1 < (counting 0#32 1#32 2#32 true false base).timer.counter.toNat)
      ∧ ((counting 0#32 0#32 1#32 true true base).timer.counter = 1#32
          ∧ (counting 0#32 0#32 1#32 true true base).timer.oneShot = true)
      ∧ ((counting 0#32 1#32 1#32 true false base).timer.counter = 1#32
          ∧ (counting 0#32 1#32 1#32 true false base).timer.reloadLimit ≠ 0#32)
      ∧ ((counting 0#32 0#32 1#32 true false base).timer.oneShot = false
          ∧ (counting 0#32 0#32 1#32 true false base).timer.reloadLimit = 0#32) := by decide

theorem witness_UnderflowSignalsZero :
    (counting 1#32 0#32 0#32 true true base).timer.oneShot = true
      ∧ (counting 0#32 1#32 0#32 true false base).timer.reloadLimit ≠ 0#32
      ∧ base.timer.oneShot = false ∧ base.timer.reloadLimit = 0#32 := by decide

theorem witness_OneShotRunFiresOnceAndStops :
    1 ≤ 1 ∧ 1 ≤ 4 ∧ (counting 1#32 0#32 0#32 false false base).timer.load ≠ 0#32 := by decide
theorem witness_RepeatingRunHasPeriodReload :
    1 ≤ 1 ∧ 1 ≤ 4 ∧ (counting 0#32 1#32 0#32 false false base).timer.load = 0#32
      ∧ (counting 0#32 1#32 0#32 false false base).timer.reloadLimit ≠ 0#32 := by decide
theorem witness_SnapshotSurvivesTicks : ∃ t, ticks 3 (counting 0#32 2#32 2#32 true false base) = .next t := ⟨_, rfl⟩

/-- The last line that exists and the first that does not. -/
theorem witness_RequestDeliversALevel : 31 < base.cfg.wiring.numLines ∧ base.cfg.wiring.numLines ≤ 32 := by decide

theorem witness_SystemResetBaseline : base.cfg.legal = true ∧ baseA.cfg.legal = true := by decide
theorem witness_SystemResetIsTheThreeResetsInAnyOrder :
    base.cfg.legal = true ∧ [Instr.intcReset, .uartReset, .timerReset].Perm [.uartReset, .timerReset, .intcReset] := by decide

/-- Each kind of internal operation as a stimulus; a request; a step. -/
theorem witness_InternalOperationsAreNotReachable :
    base.call = none ∧ decode 0x281#112 = .ok .timerInUnderflow ∧ internal .timerInUnderflow = true
      ∧ decode 0x10081#112 = .ok (.erbClearStatus .uart 1#32) ∧ internal (.erbClearStatus .uart 1#32) = true
      ∧ requestOf base.cfg.wiring (.memRead 0 4) = .op (.uartRdRxtx 4) ∧ ∃ t, step busy = .next t :=
  ⟨rfl, by decide, rfl, by decide, rfl, by decide, _, rfl⟩

end Sys2Proof.Tests
end

section
/-! SUPPORT. What every run starts from and what no step changes (00_scope.md R8, 70_reset_and_hazards.md R220): the laws of a legal
configuration, each invariant of the state at construction, and the configuration and inbox after a step. -/

namespace Sys2Proof

/-- What a legal configuration is (00_scope.md R6, R8; conflict C2). -/
theorem Config.legal_iff (c : Config) :
    c.legal = true ↔ c.wiring.legal = true ∧ c.transport = true
      ∧ (c.uartResetPending = 0#32 ∨ c.uartResetPending = 1#32 ∧ c.uartMode = .A) := by
  simp [Config.legal, and_assoc]

/-- The standard configuration is legal: its wiring carries the proof, and `UART_RESET_PENDING` is 0. -/
theorem Config.standard_legal : Config.standard.legal = true :=
  (Config.legal_iff _).2 ⟨Config.openWiring.legal, rfl, .inl rfl⟩

end Sys2Proof

namespace Sys2Proof.Machine

/-! ## The state at construction -/

/-- A cleared triplet is inside every mask. -/
theorem EventBlock.cleared_inside (mask : Word) :
    ({ status := 0#32, pending := 0#32, enable := 0#32 } : EventBlock).Inside mask := by
  simp

theorem State.initial_tripletsInside {c : Config} (h : c.legal = true) : (State.initial c).TripletsInside := by
  obtain ⟨_, _, hp⟩ := (Config.legal_iff c).1 h
  refine ⟨?_, EventBlock.cleared_inside _⟩
  show EventBlock.Inside 0x3#32 { status := 1#32, pending := c.uartResetPending, enable := 0#32 }
  rcases hp with h0 | ⟨h1, _⟩
  · rw [h0]; decide
  · rw [h1]; decide

/-- With no pending bit at reset there is none outside `enable`. -/
theorem State.initial_pendingFolded {c : Config} (h : c.uartMode = .B → c.uartResetPending = 0#32) :
    (State.initial c).PendingFolded := by
  intro hB
  show c.uartResetPending &&& ~~~0#32 = 0#32
  rw [h hB]; rfl

/-- Both levels are low at construction: no timer bit is pending, and of the UART's bits none is pending or, in mode A, none is
enabled. -/
theorem State.initial_linesFollowLevels {c : Config} (h : c.legal = true) : (State.initial c).LinesFollowLevels := by
  obtain ⟨_, _, hp⟩ := (Config.legal_iff c).1 h
  refine ⟨?_, show false = lineLevel .A { status := 0#32, pending := 0#32, enable := 0#32 } by decide⟩
  show false = lineLevel c.uartMode { status := 1#32, pending := c.uartResetPending, enable := 0#32 }
  rcases hp with h0 | ⟨_, hA⟩
  · rw [h0]; cases c.uartMode <;> rfl
  · rw [hA]; simp [lineLevel]

theorem State.initial_outputsFollowMasks (c : Config) : (State.initial c).intc.OutputsFollowMasks := by
  simp [State.initial]

/-- The engine stands still at construction. -/
theorem State.initial_runningCounts (c : Config) : (State.initial c).RunningCounts :=
  fun hrun => Bool.noConfusion hrun

theorem State.initial_pendingLinesExist (c : Config) : (State.initial c).PendingLinesExist :=
  Nat.two_pow_pos _

/-- The base case of the invariant. -/
theorem State.initial_inv {c : Config} (h : c.legal = true) : (State.initial c).Inv := by
  have hfold : c.uartMode = .B → c.uartResetPending = 0#32 := by
    intro hB
    obtain ⟨_, _, h0 | ⟨_, hA⟩⟩ := (Config.legal_iff c).1 h
    · exact h0
    · rw [hA] at hB; cases hB
  exact ⟨h, State.initial_tripletsInside h, State.initial_pendingFolded hfold, State.initial_linesFollowLevels h,
    State.initial_outputsFollowMasks c, State.initial_runningCounts c, State.initial_pendingLinesExist c⟩

theorem construct_of_not_legal {c : Config} (h : c.legal = false) : construct c = .refused .illegalConfiguration := by
  simp [construct, h]

theorem construct_of_legal {c : Config} (h : c.legal = true) : construct c = .next (State.initial c) := by
  simp [construct, h]

/-- Settles O13: construction tests `legal`, and each conjunct of the invariant has its base case above. -/
theorem constructionEstablishesInvariant : Obligations.ConstructionEstablishesInvariant :=
  ⟨fun _ h => construct_of_not_legal h,
    fun _ h => ⟨construct_of_legal h, State.initial_inv h⟩,
    State.initial_inv Config.standard_legal⟩

/-! ## What no step changes -/

/-- An operation that completes keeps the configuration, the inbox and the pending call. -/
theorem exec_keeps {i : Instr} {s t : State} (h : exec i s = .next t) :
    t.cfg = s.cfg ∧ t.inbox = s.inbox ∧ t.call = s.call := by
  obtain ⟨u, hu, ht⟩ := exec_next h
  obtain ⟨hcfg, hinbox, hcall⟩ := effect_keeps hu
  rw [ht]
  exact ⟨hcfg, hinbox, hcall⟩

/-- The operation of a step starts with the stimulus or the call taken, in the configuration of the state before the step. -/
theorem Performs.takes {s s0 : State} {i : Instr} (h : Performs s i s0) :
    s0.cfg = s.cfg ∧ (s.call = none → s0.inbox = s.inbox.tail) ∧ (∀ w, s.call = some w → s0.inbox = s.inbox) := by
  rcases h with ⟨hc, x, rest, hi, _, rfl⟩ | ⟨w, hc, _, _, rfl⟩
  · simp [hc, hi]
  · simp [hc]

/-- Settles O23, by the three things a step can do (`step_next`). -/
theorem stepKeepsConfiguration : Obligations.StepKeepsConfiguration := by
  intro s t h
  rcases step_next h with ⟨hc, hi, rfl⟩ | ⟨hc, x, rest, hi, _, rfl⟩ | ⟨i, s0, hp, he⟩
  · simp [hc, hi]
  · simp [hc, hi]
  · obtain ⟨hcfg, hinbox, _⟩ := exec_keeps he
    rw [hcfg, hinbox]
    exact hp.takes

/-- The configuration is fixed at construction (00_scope.md R8). -/
theorem step_cfg {s t : State} (h : step s = .next t) : t.cfg = s.cfg :=
  (stepKeepsConfiguration s t h).1

end Sys2Proof.Machine
end

section
/-! SUPPORT. The request of a stimulus as the step carries it out (20_memory.md R48), and the four pseudo-register numbers
(10_state.md R24). -/

namespace Sys2Proof

/-- The pseudo-register numbers of a legal wiring differ pairwise (assumption log 24). -/
theorem Wiring.legal_pseudo_ne {w : Wiring} (h : w.legal = true) :
    (w.mIrqEnableId ≠ w.mIrqPendingId ∧ w.mIrqEnableId ≠ w.sIrqEnableId ∧ w.mIrqEnableId ≠ w.sIrqPendingId)
      ∧ (w.mIrqPendingId ≠ w.sIrqEnableId ∧ w.mIrqPendingId ≠ w.sIrqPendingId) ∧ w.sIrqEnableId ≠ w.sIrqPendingId := by
  simp only [Wiring.legal, Bool.and_eq_true, decide_eq_true_eq] at h
  obtain ⟨-, hnodup⟩ := h
  simpa using hnodup

end Sys2Proof

namespace Sys2Proof.Machine

/-- A step with no call pending performs what the first stimulus requests, with that stimulus taken. -/
theorem step_of_requestOf {s : State} {x : Stimulus} {i : Instr} (rest : List Stimulus) (hcall : s.call = none)
    (hx : requestOf s.cfg.wiring x = .op i) : step { s with inbox := x :: rest } = exec i { s with inbox := rest } := by
  simp only [step, hcall, hx]
  rfl

/-- The control-register number of a pseudo-register (10_state.md R24). -/
def pseudoId (w : Wiring) : PseudoReg → Nat
  | .mIrqEnable => w.mIrqEnableId
  | .mIrqPending => w.mIrqPendingId
  | .sIrqEnable => w.sIrqEnableId
  | .sIrqPending => w.sIrqPendingId

/-- In a legal wiring each number selects its pseudo-register: none of the numbers tested before it is equal to it. -/
theorem pseudoOf_pseudoId {w : Wiring} (h : w.legal = true) (p : PseudoReg) : pseudoOf w (pseudoId w p) = some p := by
  obtain ⟨⟨hmEmP, hmEsE, hmEsP⟩, ⟨hmPsE, hmPsP⟩, hsEsP⟩ := Wiring.legal_pseudo_ne h
  cases p with
  | mIrqEnable => simp [pseudoOf, pseudoId]
  | mIrqPending => simp [pseudoOf, pseudoId, hmEmP.symm]
  | sIrqEnable => simp [pseudoOf, pseudoId, hmEsE.symm, hmPsE.symm]
  | sIrqPending => simp [pseudoOf, pseudoId, hmEsP.symm, hmPsP.symm, hsEsP.symm]

/-- A pseudo-register read by number runs the read of its register. -/
theorem step_pseudoRead {s : State} (rest : List Stimulus) (hcall : s.call = none) (h : s.cfg.wiring.legal = true)
    (p : PseudoReg) :
    step { s with inbox := .pseudoRead (pseudoId s.cfg.wiring p) :: rest } = exec (pseudoReadOf p) { s with inbox := rest } :=
  step_of_requestOf rest hcall (by simp only [requestOf, pseudoOf_pseudoId h])

/-- A pseudo-register write by number runs the write of its register. -/
theorem step_pseudoWrite {s : State} (rest : List Stimulus) (hcall : s.call = none) (h : s.cfg.wiring.legal = true) (v : Word)
    (p : PseudoReg) :
    step { s with inbox := .pseudoWrite (pseudoId s.cfg.wiring p) v :: rest }
      = exec (pseudoWriteOf v p) { s with inbox := rest } :=
  step_of_requestOf rest hcall (by simp only [requestOf, pseudoOf_pseudoId h])

/-- Settles O7, by the dispatch of each register's own number (`pseudoOf_pseudoId`). -/
theorem pseudoNumberSelectsRegister : Obligations.PseudoNumberSelectsRegister := by
  intro s rest v hcall hlegal
  obtain ⟨hw, -, -⟩ := (Config.legal_iff _).1 hlegal
  have hread := step_pseudoRead rest hcall hw
  have hwrite := step_pseudoWrite rest hcall hw v
  exact ⟨hread .mIrqEnable, hread .mIrqPending, hread .sIrqEnable, hread .sIrqPending,
    hwrite .mIrqEnable, hwrite .mIrqPending, hwrite .sIrqEnable, hwrite .sIrqPending⟩

end Sys2Proof.Machine
end

section
/-! SUPPORT. The invariants of 10_state.md R13 and R14: what each triplet operation does to the bits outside `EV_MASK` and, in
mode (b), outside `enable`; and that every step keeps both. -/

namespace Sys2Proof.Machine

/-! ## Words with no bit outside a mask -/

theorem or_and_not_eq_zero {a b m : Word} (ha : a &&& ~~~m = 0#32) (hb : b &&& ~~~m = 0#32) :
    (a ||| b) &&& ~~~m = 0#32 := by
  rw [BitVec.and_comm, BitVec.and_or_distrib_left, BitVec.and_comm _ a, BitVec.and_comm _ b, ha, hb, BitVec.or_zero]

theorem and_and_not_eq_zero {a m : Word} (ha : a &&& ~~~m = 0#32) (b : Word) : a &&& b &&& ~~~m = 0#32 := by
  rw [BitVec.and_assoc, BitVec.and_comm b, ← BitVec.and_assoc, ha, BitVec.zero_and]

theorem and_mask_and_not_eq_zero (a m : Word) : a &&& m &&& ~~~m = 0#32 := by
  rw [BitVec.and_assoc, BitVec.and_not_self]
  exact BitVec.and_zero

/-! ## The triplet operations stay inside the mask -/

/-- `clear_pending` only clears (40_event_register_block.md R84): whatever it keeps, was pending. -/
theorem clearPending_pending_and (c : BlockConfig) (m : Word) (e : EventBlock) :
    ∃ kept, (e.clearPending c m).pending = e.pending &&& kept := by
  unfold EventBlock.clearPending
  split <;> exact ⟨_, rfl⟩

theorem EventBlock.setEnable_inside {c : BlockConfig} {e : EventBlock} (h : e.Inside c.evMask) (v : Word) :
    (e.setEnable c v).Inside c.evMask := by
  obtain ⟨hstatus, hpending, -⟩ := h
  refine ⟨by rwa [setEnable_status], ?_, by rw [setEnable_enable]; exact and_mask_and_not_eq_zero _ _⟩
  cases hmode : c.mode with
  | A => rwa [setEnable_pending_A c hmode]
  | B =>
    rw [setEnable_pending_B c hmode, ← BitVec.and_assoc]
    exact and_mask_and_not_eq_zero _ _

theorem EventBlock.clearPending_inside {mask : Word} {e : EventBlock} (h : e.Inside mask) (c : BlockConfig) (m : Word) :
    (e.clearPending c m).Inside mask := by
  obtain ⟨hstatus, hpending, henable⟩ := h
  obtain ⟨kept, hkept⟩ := clearPending_pending_and c m e
  refine ⟨by rwa [clearPending_status], ?_, by rwa [clearPending_enable]⟩
  rw [hkept]
  exact and_and_not_eq_zero hpending kept

theorem EventBlock.signalEvent_inside {mask b : Word} {e : EventBlock} (h : e.Inside mask) (hb : b &&& ~~~mask = 0#32)
    (c : BlockConfig) : (e.signalEvent c b).Inside mask := by
  obtain ⟨hstatus, hpending, henable⟩ := h
  refine ⟨by rw [signalEvent_status]; exact or_and_not_eq_zero hstatus hb, ?_, by rwa [signalEvent_enable]⟩
  cases hmode : c.mode with
  | A => rw [signalEvent_pending_A c hmode]; exact or_and_not_eq_zero hpending hb
  | B => rw [signalEvent_pending_B c hmode]; exact or_and_not_eq_zero hpending (and_and_not_eq_zero henable b)

theorem EventBlock.clearStatus_inside {mask : Word} {e : EventBlock} (h : e.Inside mask) (b : Word) :
    (e.clearStatus b).Inside mask := by
  obtain ⟨hstatus, hpending, henable⟩ := h
  exact ⟨and_and_not_eq_zero hstatus _, hpending, henable⟩

/-! ## R13 at every step -/

/-- Each triplet is inside its own device's `EV_MASK`. -/
theorem State.tripletsInside_iff (s : State) : s.TripletsInside ↔ ∀ d, (s.block d).Inside (blockConfig s.cfg d).evMask :=
  ⟨fun h d => by cases d; exacts [h.1, h.2], fun h => ⟨h .uart, h .timer⟩⟩

/-- R13 beside a legal configuration, which bounds the reset value of the UART's `pending`. -/
def TripletsLawful (s : State) : Prop := s.cfg.legal = true ∧ s.TripletsInside

/-- A triplet operation of one device leaves R13 true when it takes a triplet inside the device's `EV_MASK` to one inside it. -/
theorem driveIrq_setBlock_tripletsLawful {s : State} (h : TripletsLawful s) (d : Dev) {e : EventBlock}
    (he : (s.block d).Inside (blockConfig s.cfg d).evMask → e.Inside (blockConfig s.cfg d).evMask) :
    TripletsLawful (driveIrq d (s.setBlock d e)) := by
  obtain ⟨hlegal, hinside⟩ := h
  have he' := he (s.tripletsInside_iff.1 hinside d)
  obtain ⟨huart, htimer⟩ := hinside
  cases d with
  | uart => exact ⟨hlegal, he', htimer⟩
  | timer => exact ⟨hlegal, huart, he'⟩

/-- TX and RX are the events of the UART, and ZERO the timer's (10_state.md R17, R19). -/
theorem uartEvent_inside {b : Word} (h : b = evTx ∨ b = evRx) : b &&& ~~~(0x3#32) = 0#32 := by
  rcases h with rfl | rfl <;> decide

theorem evZero_inside : evZero &&& ~~~(0x1#32) = 0#32 := by decide

theorem tripletsLawful_keptByOps : KeptByOps TripletsLawful where
  onSignalUart _ _ h hb := driveIrq_setBlock_tripletsLawful h .uart fun hin =>
    EventBlock.signalEvent_inside hin (uartEvent_inside hb) _
  onSignalTimer _ h := driveIrq_setBlock_tripletsLawful h .timer fun hin =>
    EventBlock.signalEvent_inside hin evZero_inside _
  onClearPending d m _ h := driveIrq_setBlock_tripletsLawful h d fun hin => EventBlock.clearPending_inside hin _ m
  onSetEnable d m _ h := driveIrq_setBlock_tripletsLawful h d fun hin => EventBlock.setEnable_inside hin m
  onClearStatus d m _ h := driveIrq_setBlock_tripletsLawful h d fun hin => EventBlock.clearStatus_inside hin m
  onSend _ _ h := h
  onSetRx _ _ h := h
  onResetUart := fun _ ⟨hlegal, _, htimer⟩ => ⟨hlegal, (State.initial_tripletsInside hlegal).1, htimer⟩
  onResetTimer := fun _ ⟨hlegal, huart, _⟩ => ⟨hlegal, huart, EventBlock.cleared_inside _⟩
  onResetIntc _ h := h
  onSetTimer := fun _ t ⟨hlegal, huart, htimer⟩ hblock _ => ⟨hlegal, huart, show t.block.Inside _ by rwa [hblock]⟩
  onUpdateTimer := fun _ t ⟨hlegal, huart, htimer⟩ hblock => ⟨hlegal, huart, show t.block.Inside _ by rwa [hblock]⟩
  onRecompute _ _ h _ := h
  onSetLine _ _ _ h _ := h

theorem step_tripletsLawful {s t : State} (h : TripletsLawful s) (hstep : step s = .next t) : TripletsLawful t :=
  kept_step tripletsLawful_keptByOps (fun _ _ hp => hp) (fun _ _ hp => hp) h hstep

/-- Settles O15: each triplet operation stays inside the `EV_MASK` of its device, and no other operation writes a triplet but the
resets. -/
theorem tripletBitsStayInsideEventMask : Obligations.TripletBitsStayInsideEventMask :=
  ⟨fun _ h => State.initial_tripletsInside h, fun _ _ hlegal hin hstep => step_tripletsLawful ⟨hlegal, hin⟩ hstep⟩

/-! ## The triplet operations in mode (b) -/

/-- No bit of `pending` outside `enable` (10_state.md R14). -/
def EventBlock.Folded (e : EventBlock) : Prop := e.pending &&& ~~~e.enable = 0#32

/-- The new `pending` is cut to the new `enable` (40_event_register_block.md R85). -/
theorem EventBlock.setEnable_folded {c : BlockConfig} (hB : c.mode = .B) (v : Word) (e : EventBlock) :
    (e.setEnable c v).Folded := by
  rw [EventBlock.Folded, setEnable_pending_B c hB, setEnable_enable]
  exact and_mask_and_not_eq_zero _ _

theorem EventBlock.clearPending_folded {e : EventBlock} (h : e.Folded) (c : BlockConfig) (m : Word) :
    (e.clearPending c m).Folded := by
  obtain ⟨kept, hkept⟩ := clearPending_pending_and c m e
  rw [EventBlock.Folded, hkept, clearPending_enable]
  exact and_and_not_eq_zero h kept

/-- Only an enabled event is latched (40_event_register_block.md R86). -/
theorem EventBlock.signalEvent_folded {c : BlockConfig} (hB : c.mode = .B) {e : EventBlock} (h : e.Folded) (b : Word) :
    (e.signalEvent c b).Folded := by
  rw [EventBlock.Folded, signalEvent_pending_B c hB, signalEvent_enable]
  exact or_and_not_eq_zero h (and_and_not_eq_zero (BitVec.and_not_self _) b)

/-! ## R14 at every step -/

/-- R14 beside its own premise: in mode (b) the reset value of `pending` is 0. -/
def FoldLawful (s : State) : Prop := (s.cfg.uartMode = .B → s.cfg.uartResetPending = 0#32) ∧ s.PendingFolded

/-- A triplet operation of one device leaves R14 true when in mode (b) it takes a folded triplet to a folded one; of the timer,
which is in mode (a), nothing is asked. -/
theorem driveIrq_setBlock_foldLawful {s : State} (h : FoldLawful s) (d : Dev) {e : EventBlock}
    (he : (blockConfig s.cfg d).mode = .B → (s.block d).Folded → e.Folded) : FoldLawful (driveIrq d (s.setBlock d e)) := by
  obtain ⟨hreset, hfolded⟩ := h
  cases d with
  | uart => exact ⟨hreset, fun hB => he hB (hfolded hB)⟩
  | timer => exact ⟨hreset, hfolded⟩

theorem foldLawful_keptByOps : KeptByOps FoldLawful where
  onSignalUart _ b h _ := driveIrq_setBlock_foldLawful h .uart fun hB hf => EventBlock.signalEvent_folded hB hf b
  onSignalTimer _ h := h
  onClearPending d m _ h := driveIrq_setBlock_foldLawful h d fun _ hf => EventBlock.clearPending_folded hf _ m
  onSetEnable d m _ h := driveIrq_setBlock_foldLawful h d fun hB _ => EventBlock.setEnable_folded hB m _
  onClearStatus d _ _ h := driveIrq_setBlock_foldLawful h d fun _ hf => hf
  onSend _ _ h := h
  onSetRx _ _ h := h
  onResetUart := fun _ ⟨hreset, _⟩ => ⟨hreset, State.initial_pendingFolded hreset⟩
  onResetTimer _ h := h
  onResetIntc _ h := h
  onSetTimer _ _ h _ _ := h
  onUpdateTimer _ _ h _ := h
  onRecompute _ _ h _ := h
  onSetLine _ _ _ h _ := h

theorem step_foldLawful {s t : State} (h : FoldLawful s) (hstep : step s = .next t) : FoldLawful t :=
  kept_step foldLawful_keptByOps (fun _ _ hp => hp) (fun _ _ hp => hp) h hstep

/-- Settles O16: in mode (b) the enable write cuts `pending` to `enable`, a signal latches enabled bits only, and a clear only
clears. -/
theorem pendingStaysInsideEnableInModeB : Obligations.PendingStaysInsideEnableInModeB := by
  refine ⟨fun _ _ hreset => State.initial_pendingFolded fun _ => hreset, fun s t hB hreset hfold hstep => ?_⟩
  obtain ⟨-, hfold'⟩ := step_foldLawful ⟨fun _ => hreset, hfold⟩ hstep
  rw [step_cfg hstep]
  exact ⟨hB, hreset, hfold'⟩

end Sys2Proof.Machine
end

section
/-! SUPPORT. The invariants of the interrupt path: the two lines and the two outputs (10_state.md R16, R23;
40_event_register_block.md R89), which pending bits of the controller exist (43_interrupt_controller.md R170), and what a line
neither peripheral drives holds (10_state.md R22). -/

namespace Sys2Proof.Machine

/-! ## R16: the lines -/

/-- After `drive_irq(DEV)` that device's line carries its level, whatever stood there before; the other's must have before. -/
theorem driveIrq_uart_linesFollowLevels {s : State} (h : s.timer.irqOut = lineLevel .A s.timer.block) :
    (driveIrq .uart s).LinesFollowLevels := by
  refine ⟨?_, h⟩
  rw [(driveIrq_uart_driven s).1, driveIrq_cfg]

theorem driveIrq_timer_linesFollowLevels {s : State} (h : s.uart.irqOut = lineLevel s.cfg.uartMode s.uart.block) :
    (driveIrq .timer s).LinesFollowLevels := by
  refine ⟨h, ?_⟩
  rw [(driveIrq_timer_driven s).1]

/-- Every triplet operation ends with the drive of its own device's line (60_exceptions.md R192). -/
theorem driveIrq_setBlock_linesFollowLevels {s : State} (h : s.LinesFollowLevels) (d : Dev) (e : EventBlock) :
    (driveIrq d (s.setBlock d e)).LinesFollowLevels := by
  obtain ⟨huart, htimer⟩ := h
  cases d with
  | uart => exact driveIrq_uart_linesFollowLevels htimer
  | timer => exact driveIrq_timer_linesFollowLevels huart

theorem linesFollowLevels_keptByOps : KeptByOps State.LinesFollowLevels where
  onSignalUart _ _ h _ := driveIrq_setBlock_linesFollowLevels h .uart _
  onSignalTimer _ h := driveIrq_setBlock_linesFollowLevels h .timer _
  onClearPending d _ _ h := driveIrq_setBlock_linesFollowLevels h d _
  onSetEnable d _ _ h := driveIrq_setBlock_linesFollowLevels h d _
  onClearStatus d _ _ h := driveIrq_setBlock_linesFollowLevels h d _
  onSend _ _ h := h
  onSetRx _ _ h := h
  onResetUart _ h := driveIrq_uart_linesFollowLevels h.2
  onResetTimer _ h := driveIrq_timer_linesFollowLevels h.1
  onResetIntc _ h := h
  onSetTimer s t h hblock hirq := ⟨h.1, show t.irqOut = lineLevel .A t.block by rw [hblock, hirq]; exact h.2⟩
  onUpdateTimer _ _ h _ := driveIrq_timer_linesFollowLevels h.1
  onRecompute _ _ h _ := h
  onSetLine _ _ _ h _ := h

theorem step_linesFollowLevels {s t : State} (h : s.LinesFollowLevels) (hstep : step s = .next t) : t.LinesFollowLevels :=
  kept_step linesFollowLevels_keptByOps (fun _ _ hp => hp) (fun _ _ hp => hp) h hstep

/-! ## R23: the outputs -/

theorem driveIrq_outputsFollowMasks (d : Dev) (s : State) : (driveIrq d s).intc.OutputsFollowMasks := by
  rw [driveIrq_intc]
  exact recompute_outputs _

/-- Whatever writes the controller ends with `recompute` (43_interrupt_controller.md R175). -/
theorem outputsFollowMasks_keptByOps : KeptByOps fun s => s.intc.OutputsFollowMasks where
  onSignalUart _ _ _ _ := driveIrq_outputsFollowMasks .uart _
  onSignalTimer _ _ := driveIrq_outputsFollowMasks .timer _
  onClearPending d _ _ _ := driveIrq_outputsFollowMasks d _
  onSetEnable d _ _ _ := driveIrq_outputsFollowMasks d _
  onClearStatus d _ _ _ := driveIrq_outputsFollowMasks d _
  onSend _ _ h := h
  onSetRx _ _ h := h
  onResetUart _ _ := driveIrq_outputsFollowMasks .uart _
  onResetTimer _ _ := driveIrq_outputsFollowMasks .timer _
  onResetIntc _ _ := recompute_outputs _
  onSetTimer _ _ h _ _ := h
  onUpdateTimer _ _ _ _ := driveIrq_outputsFollowMasks .timer _
  onRecompute _ _ _ _ := recompute_outputs _
  onSetLine _ _ _ _ _ := recompute_outputs _

theorem step_outputsFollowMasks {s t : State} (h : s.intc.OutputsFollowMasks) (hstep : step s = .next t) :
    t.intc.OutputsFollowMasks :=
  kept_step outputsFollowMasks_keptByOps (fun _ _ hp => hp) (fun _ _ hp => hp) h hstep

/-- Settles O17: every operation that may change a level drives its line, and every one that may change the controller's bits or
masks recomputes its outputs. -/
theorem linesAndOutputsFollowTheirRegisters : Obligations.LinesAndOutputsFollowTheirRegisters :=
  ⟨fun c h => ⟨State.initial_linesFollowLevels h, State.initial_outputsFollowMasks c⟩,
    fun _ _ hlines houts hstep => ⟨step_linesFollowLevels hlines hstep, step_outputsFollowMasks houts hstep⟩⟩

/-! ## R170: the pending bits of lines that exist -/

/-- Both peripherals of a legal wiring are on lines that exist (00_scope.md R6). -/
theorem irqLine_lt_numLines {w : Wiring} (h : w.legal = true) (d : Dev) : irqLine w d < w.numLines := by
  simp only [Wiring.legal, Bool.and_eq_true, decide_eq_true_eq] at h
  cases d <;> simp only [irqLine] <;> omega

/-- No pending bit of a line that does not exist, beside a legal configuration, which puts the peripherals on lines that do. -/
def LinesLawful (s : State) : Prop := s.cfg.legal = true ∧ s.PendingLinesExist

/-- A drive of a peripheral's line, after anything that left the controller and the configuration alone, drives a line that
exists. -/
theorem driveIrq_linesLawful {s s' : State} (h : LinesLawful s) (d : Dev) (hcfg : s'.cfg = s.cfg) (hintc : s'.intc = s.intc) :
    LinesLawful (driveIrq d s') := by
  obtain ⟨hlegal, hlines⟩ := h
  obtain ⟨hwiring, -, -⟩ := (Config.legal_iff _).1 hlegal
  refine ⟨by rwa [driveIrq_cfg, hcfg], ?_⟩
  rw [State.PendingLinesExist, driveIrq_intc, driveIrq_cfg, hcfg, hintc]
  exact setLine_lt (irqLine_lt_numLines hwiring d) hlines

theorem linesLawful_keptByOps : KeptByOps LinesLawful where
  onSignalUart _ _ h _ := driveIrq_linesLawful h .uart rfl rfl
  onSignalTimer _ h := driveIrq_linesLawful h .timer rfl rfl
  onClearPending d _ _ h := driveIrq_linesLawful h d (State.setBlock_cfg ..) (State.setBlock_intc ..)
  onSetEnable d _ _ h := driveIrq_linesLawful h d (State.setBlock_cfg ..) (State.setBlock_intc ..)
  onClearStatus d _ _ h := driveIrq_linesLawful h d (State.setBlock_cfg ..) (State.setBlock_intc ..)
  onSend _ _ h := h
  onSetRx _ _ h := h
  onResetUart _ h := driveIrq_linesLawful h .uart rfl rfl
  onResetTimer _ h := driveIrq_linesLawful h .timer rfl rfl
  onResetIntc _ h := ⟨h.1, Nat.two_pow_pos _⟩
  onSetTimer _ _ h _ _ := h
  onUpdateTimer _ _ h _ := driveIrq_linesLawful h .timer rfl rfl
  onRecompute s c h hbits := ⟨h.1, show c.pendingBits.toNat < _ by rw [hbits]; exact h.2⟩
  onSetLine _ _ _ h hline := ⟨h.1, setLine_lt hline h.2⟩

theorem step_linesLawful {s t : State} (h : LinesLawful s) (hstep : step s = .next t) : LinesLawful t :=
  kept_step linesLawful_keptByOps (fun _ _ hp => hp) (fun _ _ hp => hp) h hstep

/-! ## R22: the lines neither peripheral drives -/

/-- A drive of a peripheral's line, after anything that left the controller and the configuration alone, leaves the pending bit of
every other line. -/
theorem driveIrq_getLsbD_of_ne {k : Nat} (hk : k < 32) {d : Dev} {s s' : State} (hne : k ≠ irqLine s.cfg.wiring d)
    (hcfg : s'.cfg = s.cfg) (hintc : s'.intc = s.intc) :
    (driveIrq d s').intc.pendingBits.getLsbD k = s.intc.pendingBits.getLsbD k := by
  rw [driveIrq_intc, hcfg, hintc, setLine_getLsbD _ _ _ k hk, if_neg hne]

theorem underflow_getLsbD_of_ne {k : Nat} (hk : k < 32) {s u : State} (hne : k ≠ irqLine s.cfg.wiring .timer)
    (h : underflow s = .ok u) : u.intc.pendingBits.getLsbD k = s.intc.pendingBits.getLsbD k := by
  rcases underflow_cases s with ⟨_, h'⟩ | ⟨_, _, h'⟩ | ⟨_, _, h'⟩ <;> rw [h'] at h <;> cases h
  · exact driveIrq_getLsbD_of_ne hk hne rfl rfl
  · exact driveIrq_getLsbD_of_ne hk hne rfl rfl

theorem tick_getLsbD_of_ne {k : Nat} (hk : k < 32) {s u : State} (hne : k ≠ irqLine s.cfg.wiring .timer)
    (h : tick s = .ok u) : u.intc.pendingBits.getLsbD k = s.intc.pendingBits.getLsbD k := by
  rcases tick_cases s with ⟨_, h'⟩ | ⟨_, _, h'⟩ | ⟨_, _, h'⟩ <;> rw [h'] at h
  · cases h; rfl
  · cases h; exact driveIrq_getLsbD_of_ne hk hne rfl rfl
  · exact underflow_getLsbD_of_ne (s := s.setTimer { s.timer with counter := 0#32 }) hk hne h

/-- The pending bit of a line neither peripheral drives stays in every operation but a request on that line and a reset of the
controller: no other delivers a level to it. -/
theorem effect_getLsbD_otherLine {i : Instr} {s u : State} {k : Nat} (h : effect i s = .ok u) (hk : k < 32)
    (hne : ∀ d, k ≠ irqLine s.cfg.wiring d) (hrequest : ∀ level, i ≠ .intcInRequest k level) (hreset : i ≠ .intcReset)
    (hsys : i ≠ .sysReset) : u.intc.pendingBits.getLsbD k = s.intc.pendingBits.getLsbD k := by
  cases i with
  | uartRdRxtx | uartWrRxtx | uartWrEvPending | uartWrEvEnable | uartInByteReceived | uartReset =>
    cases h; exact driveIrq_getLsbD_of_ne hk (hne .uart) rfl rfl
  | timerWrLoad | timerWrReload | timerWrEnStop | timerWrUpdateValue | timerWrEvPending | timerWrEvEnable | timerReset =>
    cases h; exact driveIrq_getLsbD_of_ne hk (hne .timer) rfl rfl
  | timerWrEnStart =>
    obtain ⟨-, -, hdriven, -⟩ := startTimer_frame h
    exact (hdriven k hk).trans (if_neg (hne .timer))
  | timerInTick => exact tick_getLsbD_of_ne hk (hne .timer) h
  | timerInUnderflow => exact underflow_getLsbD_of_ne hk (hne .timer) h
  | erbClearPending d | erbSetEnable d | erbClearStatus d =>
    cases h; exact driveIrq_getLsbD_of_ne hk (hne d) (State.setBlock_cfg ..) (State.setBlock_intc ..)
  | erbSignalEvent d =>
    simp only [effect] at h; split at h <;> cases h
    exact driveIrq_getLsbD_of_ne hk (hne d) (State.setBlock_cfg ..) (State.setBlock_intc ..)
  | intcInRequest line level =>
    have hline : k ≠ line := fun heq => hrequest level (by rw [heq])
    simp only [effect] at h; split at h <;> cases h
    rw [State.setIntc_intc, setLine_getLsbD _ _ _ k hk, if_neg hline]
  | intcReset => exact absurd rfl hreset
  | sysReset => exact absurd rfl hsys
  | _ => cases h; rfl

/-- A request leaves its level in the pending bit of its line (43_interrupt_controller.md R170). -/
theorem request_getLsbD {s u : State} {k : Nat} {level : Bool} (hk : k < 32) (h : effect (.intcInRequest k level) s = .ok u) :
    u.intc.pendingBits.getLsbD k = level := by
  simp only [effect] at h; split at h <;> cases h
  rw [State.setIntc_intc, setLine_getLsbD _ _ _ k hk, if_pos rfl]

/-- A reset of the controller, alone or in the system reset, leaves no pending bit (70_reset_and_hazards.md R223, R224). -/
theorem reset_pendingBits {i : Instr} {s u : State} (hi : i = .intcReset ∨ i = .sysReset) (h : effect i s = .ok u) :
    u.intc.pendingBits = 0#32 := by
  rcases hi with rfl | rfl <;> cases h <;> rfl

/-- Settles O22: a request and the two resets each say what the bit becomes, and every other operation drives no line but those of
the peripherals. -/
theorem otherLinesHoldTheLastLevelDelivered : Obligations.OtherLinesHoldTheLastLevelDelivered := by
  intro i s t k hexec hk huart htimer
  obtain ⟨u, heff, ht⟩ := exec_next hexec
  rw [ht, State.setResult_intc]
  refine ⟨?_, fun hi => by rw [reset_pendingBits hi heff, BitVec.getLsbD_zero], fun hrequest hreset hsys => ?_⟩
  · rintro level rfl
    exact request_getLsbD hk heff
  · exact effect_getLsbD_otherLine heff hk (fun d => by cases d; exacts [huart, htimer]) hrequest hreset hsys

end Sys2Proof.Machine
end

section
/-! SUPPORT. The invariant of the countdown engine (42_timer.md R151), and with it the whole invariant of lawful states. -/

namespace Sys2Proof

/-- In mode (b) a legal reset value of `pending` is 0 (conflict C2). -/
theorem Config.legal_resetPending_modeB {c : Config} (h : c.legal = true) (hB : c.uartMode = .B) :
    c.uartResetPending = 0#32 := by
  obtain ⟨-, -, hzero | ⟨-, hA⟩⟩ := (Config.legal_iff c).1 h
  · exact hzero
  · rw [hA] at hB; cases hB

end Sys2Proof

namespace Sys2Proof.Machine

/-! ## R151: a running counter is not 0 -/

/-- A start takes its count from a staged value or a period that is not 0 (42_timer.md R134). -/
theorem startTimer_runningCounts {s u : State} (h : startTimer s = .ok u) : u.RunningCounts := by
  rcases startTimer_cases s with ⟨_, _, h'⟩ | ⟨hload, h'⟩ | ⟨_, hreload, h'⟩ <;> rw [h'] at h <;> cases h
  · exact fun _ => hload
  · exact fun _ => hreload

/-- An underflow stops a one-shot run and reloads a repeating one with a period that is not 0 (42_timer.md R146). -/
theorem underflow_runningCounts {s u : State} (h : underflow s = .ok u) : u.RunningCounts := by
  rcases underflow_cases s with ⟨_, h'⟩ | ⟨_, _, h'⟩ | ⟨_, hreload, h'⟩ <;> rw [h'] at h <;> cases h
  · exact fun hrun => Bool.noConfusion hrun
  · exact fun _ => hreload

/-- A tick that would take the counter to 0 underflows (42_timer.md R145). -/
theorem tick_runningCounts {s u : State} (hs : s.RunningCounts) (h : tick s = .ok u) : u.RunningCounts := by
  rcases tick_cases s with ⟨_, h'⟩ | ⟨_, hcounter, h'⟩ | ⟨_, _, h'⟩ <;> rw [h'] at h
  · cases h; exact hs
  · cases h
    intro _ hzero
    exact hcounter (by simpa [BitVec.sub_eq_iff_eq_add] using hzero)
  · exact underflow_runningCounts h

/-- Only the engine's own operations and its reset write `running` or the counter. -/
theorem effect_runningCounts {i : Instr} {s u : State} (hs : s.RunningCounts) (h : effect i s = .ok u) : u.RunningCounts := by
  cases i with
  | timerWrEnStart => exact startTimer_runningCounts h
  | timerInUnderflow => exact underflow_runningCounts h
  | timerInTick => exact tick_runningCounts hs h
  | timerWrEnStop | timerReset | sysReset => cases h; exact fun hrun => Bool.noConfusion hrun
  | intcInRequest => simp only [effect] at h; split at h <;> cases h; exact hs
  | erbSignalEvent d => simp only [effect] at h; split at h <;> cases h; cases d <;> exact hs
  | erbClearPending d | erbSetEnable d | erbClearStatus d => cases h; cases d <;> exact hs
  | _ => cases h; exact hs

theorem step_runningCounts {s t : State} (hs : s.RunningCounts) (h : step s = .next t) : t.RunningCounts := by
  obtain ⟨u, ht, rfl | ⟨i, s0, hp, -, heff⟩⟩ := step_effect h
  · rw [ht]; exact hs
  · have hs0 : s0.RunningCounts := by rw [hp.state]; exact hs
    have hu : u.RunningCounts := effect_runningCounts hs0 heff
    rw [ht]; exact hu

/-! ## The whole invariant -/

/-- Settles O12: each part of the invariant is kept by every step. A legal configuration bounds the reset value of `pending`, which
R13 and R14 need, and puts the peripherals on existing lines. -/
theorem stepKeepsInvariant : Obligations.StepKeepsInvariant := by
  intro s t ⟨hlegal, hinside, hfolded, hlines, houts, hruns, hexist⟩ hstep
  have hreset : s.cfg.uartMode = .B → s.cfg.uartResetPending = 0#32 := Config.legal_resetPending_modeB hlegal
  obtain ⟨hlegal', hinside'⟩ := step_tripletsLawful ⟨hlegal, hinside⟩ hstep
  obtain ⟨-, hfolded'⟩ := step_foldLawful ⟨hreset, hfolded⟩ hstep
  obtain ⟨-, hexist'⟩ := step_linesLawful ⟨hlegal, hexist⟩ hstep
  exact ⟨hlegal', hinside', hfolded', step_linesFollowLevels hlines hstep, step_outputsFollowMasks houts hstep,
    step_runningCounts hruns hstep, hexist'⟩

end Sys2Proof.Machine
end

section
/-! SUPPORT. How `exec` answers (20_memory.md R45, R50): it is the width test of a bus access and then the operation's `effect`,
and the situations in which an effect is refused are listed once. With it, when an operation completes, when it is refused, and
for which reason. -/

namespace Sys2Proof.Machine

/-! ## `exec` is the width test and then the effect -/

/-- The answer of an operation with the effect `x` that returns `r`. -/
def completeWith (r : Result) (x : Except Refusal State) : Outcome :=
  match x with
  | .ok u => complete r u
  | .error e => .refused e

theorem completeOr_eq_completeWith (x : Except Refusal State) : completeOr x = completeWith .nothing x := by
  cases x <;> rfl

theorem exists_completeWith_next_iff {r : Result} {x : Except Refusal State} :
    (∃ t, completeWith r x = .next t) ↔ ∃ u, x = .ok u := by
  cases x <;> simp [completeWith]

theorem completeWith_refused_iff {r : Result} {x : Except Refusal State} {e : Refusal} :
    completeWith r x = .refused e ↔ x = .error e := by
  cases x <;> simp [completeWith]

/-- The width operand, where the operation has one, is a legal one (20_memory.md R45). -/
def widthAllowed (i : Instr) : Bool := (busWidth i).all widthOk

/-- The whole answer of `exec`, up to the value returned: a bus access of another width is refused before it has an effect. -/
theorem exec_eq_effect (i : Instr) (s : State) :
    ∃ r, exec i s = if widthAllowed i = true then completeWith r (effect i s) else .refused .accessWidth := by
  cases i with
  | timerWrEnStart n v =>
    refine ⟨.nothing, ?_⟩
    rw [← completeOr_eq_completeWith]
    rfl
  | timerInTick => exact ⟨.nothing, completeOr_eq_completeWith _⟩
  | timerInUnderflow => exact ⟨.nothing, completeOr_eq_completeWith _⟩
  | intcInRequest line level =>
    refine ⟨.nothing, ?_⟩
    by_cases hline : line < s.cfg.wiring.numLines
    · simp [exec, execIntcInRequest, effect, widthAllowed, busWidth, completeWith, (hasLine_iff _ _).2 hline, hline]
    · simp [exec, execIntcInRequest, effect, widthAllowed, busWidth, completeWith, mt (hasLine_iff _ _).1 hline, hline]
  | erbSignalEvent d bit =>
    refine ⟨.nothing, ?_⟩
    by_cases hbit : bit < d.eventCount <;>
      simp [exec, execErbSignalEvent, effect, widthAllowed, busWidth, completeWith, hbit]
  | _ => exact ⟨_, rfl⟩

/-! ## When an effect is refused -/

/-- The situations in which the spec gives an operation no effect, with the reason: a start or a reload with count 0, by an EN
write, by the tick from 1, or by the underflow (42_timer.md R134, R146); a line that does not exist (43_interrupt_controller.md
R170); a bit that is no event (40_event_register_block.md R86). -/
inductive Refuses (s : State) : Instr → Refusal → Prop where
  | start (n : Nat) (v : Word) (hload : s.timer.load = 0#32) (hreload : s.timer.reloadLimit = 0#32) :
      Refuses s (.timerWrEnStart n v) .timerCountZero
  | tick (hrunning : s.timer.running = true) (hcounter : s.timer.counter = 1#32) (honeShot : s.timer.oneShot = false)
      (hreload : s.timer.reloadLimit = 0#32) : Refuses s .timerInTick .timerCountZero
  | underflow (honeShot : s.timer.oneShot = false) (hreload : s.timer.reloadLimit = 0#32) :
      Refuses s .timerInUnderflow .timerCountZero
  | request (line : Nat) (level : Bool) (hline : s.cfg.wiring.numLines ≤ line) :
      Refuses s (.intcInRequest line level) .noSuchLine
  | signal (d : Dev) (bit : Nat) (hbit : d.eventCount ≤ bit) : Refuses s (.erbSignalEvent d bit) .undefinedEvent

theorem startTimer_error_iff {s : State} {e : Refusal} :
    startTimer s = .error e ↔ e = .timerCountZero ∧ s.timer.load = 0#32 ∧ s.timer.reloadLimit = 0#32 := by
  rcases startTimer_cases s with ⟨hload, hreload, h⟩ | ⟨hload, h⟩ | ⟨_, hreload, h⟩
  · simp [h, hload, hreload, eq_comm]
  · simp [h, hload]
  · simp [h, hreload]

theorem underflow_error_iff {s : State} {e : Refusal} :
    underflow s = .error e ↔ e = .timerCountZero ∧ s.timer.oneShot = false ∧ s.timer.reloadLimit = 0#32 := by
  rcases underflow_cases s with ⟨honeShot, h⟩ | ⟨honeShot, hreload, h⟩ | ⟨_, hreload, h⟩
  · simp [h, honeShot]
  · simp [h, honeShot, hreload, eq_comm]
  · simp [h, hreload]

/-- A tick is refused in its underflow alone. -/
theorem tick_error_iff {s : State} {e : Refusal} :
    tick s = .error e ↔ e = .timerCountZero ∧ s.timer.running = true ∧ s.timer.counter = 1#32 ∧ s.timer.oneShot = false
      ∧ s.timer.reloadLimit = 0#32 := by
  rcases tick_cases s with ⟨hrunning, h⟩ | ⟨_, hcounter, h⟩ | ⟨hrunning, hcounter, h⟩
  · simp [h, hrunning]
  · simp [h, hcounter]
  · simp [h, hrunning, hcounter, underflow_error_iff]

/-- An effect is refused in the listed situations and in no other. -/
theorem effect_error_iff {i : Instr} {s : State} {e : Refusal} : effect i s = .error e ↔ Refuses s i e := by
  constructor
  · intro h
    cases i with
    | timerWrEnStart n v =>
      obtain ⟨rfl, hload, hreload⟩ := startTimer_error_iff.1 h
      exact .start n v hload hreload
    | timerInTick =>
      obtain ⟨rfl, hrunning, hcounter, honeShot, hreload⟩ := tick_error_iff.1 h
      exact .tick hrunning hcounter honeShot hreload
    | timerInUnderflow =>
      obtain ⟨rfl, honeShot, hreload⟩ := underflow_error_iff.1 h
      exact .underflow honeShot hreload
    | intcInRequest line level =>
      simp only [effect] at h
      split at h <;> cases h
      exact .request line level (Nat.le_of_not_lt ‹_›)
    | erbSignalEvent d bit =>
      simp only [effect] at h
      split at h <;> cases h
      exact .signal d bit (Nat.le_of_not_lt ‹_›)
    | _ => cases h
  · intro h
    cases h with
    | start n v hload hreload => exact startTimer_error_iff.2 ⟨rfl, hload, hreload⟩
    | tick hrunning hcounter honeShot hreload => exact tick_error_iff.2 ⟨rfl, hrunning, hcounter, honeShot, hreload⟩
    | underflow honeShot hreload => exact underflow_error_iff.2 ⟨rfl, honeShot, hreload⟩
    | request line level hline => exact if_neg (Nat.not_lt.2 hline)
    | signal d bit hbit => exact if_neg (Nat.not_lt.2 hbit)

/-! ## R45: the width refusal -/

theorem widthAllowed_eq_false_iff {i : Instr} :
    widthAllowed i = false ↔ ∃ n, busWidth i = some n ∧ ¬(1 ≤ n ∧ n ≤ 4) := by
  unfold widthAllowed
  cases busWidth i with
  | none => simp
  | some n => simp [← widthOk_iff]

theorem exec_of_not_widthAllowed {i : Instr} (h : widthAllowed i = false) (s : State) : exec i s = .refused .accessWidth := by
  obtain ⟨r, hexec⟩ := exec_eq_effect i s
  simpa [h] using hexec

/-- With a legal width, or none, an operation is refused as its effect is. -/
theorem exec_refused_iff {i : Instr} (h : widthAllowed i = true) {s : State} {e : Refusal} :
    exec i s = .refused e ↔ Refuses s i e := by
  obtain ⟨r, hexec⟩ := exec_eq_effect i s
  rw [hexec, if_pos h, completeWith_refused_iff, effect_error_iff]

/-- Settles O10: no effect is refused for a width, and the width is tested before any effect. -/
theorem accessWidthIsOneToFour : Obligations.AccessWidthIsOneToFour := by
  intro i s
  rw [← widthAllowed_eq_false_iff]
  cases hwidth : widthAllowed i with
  | false => exact iff_of_true (exec_of_not_widthAllowed hwidth s) rfl
  | true =>
    have hnot : ¬Refuses s i .accessWidth := fun h => nomatch h
    exact iff_of_false (mt (exec_refused_iff hwidth).1 hnot) Bool.noConfusion

/-! ## R50: completion -/

/-- The width is a conjunct of the well-formedness of every bus access: the only one, beside the data, or beside the offset. -/
theorem widthAllowed_of_wellFormed {i : Instr} (h : i.wellFormed = true) : widthAllowed i = true := by
  cases i with
  | uartRdRxtx | uartRdTxfull | uartRdRxempty | uartRdEvStatus | uartRdEvPending | uartRdEvEnable | uartRdTxempty | uartRdRxfull
  | timerRdLoad | timerRdReload | timerRdEn | timerRdUpdateValue | timerRdValue | timerRdEvStatus | timerRdEvPending
  | timerRdEvEnable => exact h
  | uartWrRxtx | uartWrTxfull | uartWrRxempty | uartWrEvStatus | uartWrEvPending | uartWrEvEnable | uartWrTxempty | uartWrRxfull
  | timerWrLoad | timerWrReload | timerWrUpdateValue | timerWrValue | timerWrEvStatus | timerWrEvPending
  | timerWrEvEnable => exact Bool.and_elim_left h
  | timerWrEnStart | timerWrEnStop => exact Bool.and_elim_left (Bool.and_elim_left h)
  | uartRdOther | timerRdOther => exact Bool.and_elim_right h
  | uartWrOther | timerWrOther => exact Bool.and_elim_right (Bool.and_elim_left h)
  | _ => rfl

/-- With a legal width, or none, an operation answers a next state unless its effect is refused. -/
theorem not_exists_exec_next_iff {i : Instr} (h : widthAllowed i = true) {s : State} :
    (¬∃ t, exec i s = .next t) ↔ ∃ e, Refuses s i e := by
  obtain ⟨r, hexec⟩ := exec_eq_effect i s
  simp only [hexec, if_pos h, exists_completeWith_next_iff, ← effect_error_iff]
  cases effect i s <;> simp

/-- Settles O11: of the five situations in which an effect is refused, a signal of a bit that is no event is not well-formed. -/
theorem wellFormedOperationsCompleteOrAreRefused : Obligations.WellFormedOperationsCompleteOrAreRefused := by
  intro i s hwf
  rw [not_exists_exec_next_iff (widthAllowed_of_wellFormed hwf)]
  constructor
  · rintro ⟨e, h⟩
    cases h with
    | start n v hload hreload => exact .inl ⟨⟨n, v, rfl⟩, hload, hreload⟩
    | tick hrunning hcounter honeShot hreload => exact .inr (.inl ⟨rfl, hrunning, hcounter, honeShot, hreload⟩)
    | underflow honeShot hreload => exact .inr (.inr (.inl ⟨rfl, honeShot, hreload⟩))
    | request line level hline => exact .inr (.inr (.inr ⟨line, level, rfl, hline⟩))
    | signal d bit hbit =>
      have hdefined : bit < d.eventCount := by simpa [Instr.wellFormed] using hwf
      exact absurd hdefined (Nat.not_lt.2 hbit)
  · rintro (⟨⟨n, v, rfl⟩, hload, hreload⟩ | ⟨rfl, hrunning, hcounter, honeShot, hreload⟩ | ⟨rfl, honeShot, hreload⟩
      | ⟨line, level, rfl, hline⟩)
    · exact ⟨_, .start n v hload hreload⟩
    · exact ⟨_, .tick hrunning hcounter honeShot hreload⟩
    · exact ⟨_, .underflow honeShot hreload⟩
    · exact ⟨_, .request line level hline⟩

end Sys2Proof.Machine
end

section
/-! SUPPORT. Which operations leave what (20_memory.md R40, R46, R51): the effect of the accesses that change nothing, and the
frame of each shared operation on the device it is not about. -/

namespace Sys2Proof.Machine

/-! ## R46: accesses that change nothing -/

theorem effect_of_changesNothing {i : Instr} (h : changesNothing i = true) (s : State) : effect i s = .ok s := by
  cases i with
  | uartRdRxtx | uartWrRxtx | uartWrEvPending | uartWrEvEnable | uartInByteReceived | uartReset
  | timerWrLoad | timerWrReload | timerWrEnStart | timerWrEnStop | timerWrUpdateValue | timerWrEvPending | timerWrEvEnable
  | timerInTick | timerInUnderflow | timerReset
  | intcWrMIrqEnable | intcWrSIrqEnable | intcInRequest | intcReset
  | erbClearPending | erbSetEnable | erbSignalEvent | erbClearStatus | sysReset => cases h
  | _ => rfl

/-- Settles O24: the effect is the state itself, and `exec` adds the value returned alone. -/
theorem readsChangeNothing : Obligations.ReadsChangeNothing := by
  intro i s t h hexec
  obtain ⟨u, heffect, ht⟩ := exec_next hexec
  rw [effect_of_changesNothing h s] at heffect
  cases heffect
  exact ht

/-! ## R40, R51: the two devices -/

/-- A triplet operation of the timer leaves the UART and `TXLOG`. -/
theorem driveIrq_setBlock_keeps_uart {d : Dev} (hd : d ≠ .uart) (e : EventBlock) (s : State) :
    (driveIrq d (s.setBlock d e)).uart = s.uart ∧ (driveIrq d (s.setBlock d e)).txlog = s.txlog := by
  cases d with
  | uart => exact absurd rfl hd
  | timer => exact ⟨rfl, rfl⟩

/-- A triplet operation of the UART leaves the timer. -/
theorem driveIrq_setBlock_keeps_timer {d : Dev} (hd : d ≠ .timer) (e : EventBlock) (s : State) :
    (driveIrq d (s.setBlock d e)).timer = s.timer := by
  cases d with
  | uart => rfl
  | timer => exact absurd rfl hd

/-- The operations of the timer and of the controller update the timer and the controller alone. -/
theorem effect_keeps_uart {i : Instr} {s u : State} (hi : touchesUart i = false) (h : effect i s = .ok u) :
    u.uart = s.uart ∧ u.txlog = s.txlog := by
  cases i with
  | uartRdRxtx | uartWrRxtx | uartWrEvPending | uartWrEvEnable | uartInByteReceived | uartReset | sysReset => cases hi
  | erbClearPending d | erbSetEnable d | erbClearStatus d =>
    cases h; exact driveIrq_setBlock_keeps_uart (of_decide_eq_false hi) _ s
  | erbSignalEvent d =>
    simp only [effect] at h; split at h <;> cases h
    exact driveIrq_setBlock_keeps_uart (of_decide_eq_false hi) _ s
  | timerWrEnStart => rw [(startTimer_frame h).1]; exact ⟨rfl, rfl⟩
  | timerInTick => rw [tick_frame h]; exact ⟨rfl, rfl⟩
  | timerInUnderflow => rw [underflow_frame h]; exact ⟨rfl, rfl⟩
  | intcInRequest => simp only [effect] at h; split at h <;> cases h; exact ⟨rfl, rfl⟩
  | _ => cases h; exact ⟨rfl, rfl⟩

/-- The operations of the UART and of the controller write no field of the timer. -/
theorem effect_keeps_timer {i : Instr} {s u : State} (hi : touchesTimer i = false) (h : effect i s = .ok u) :
    u.timer = s.timer := by
  cases i with
  | timerWrLoad | timerWrReload | timerWrEnStart | timerWrEnStop | timerWrUpdateValue | timerWrEvPending | timerWrEvEnable
  | timerInTick | timerInUnderflow | timerReset | sysReset => cases hi
  | erbClearPending d | erbSetEnable d | erbClearStatus d =>
    cases h; exact driveIrq_setBlock_keeps_timer (of_decide_eq_false hi) _ s
  | erbSignalEvent d =>
    simp only [effect] at h; split at h <;> cases h
    exact driveIrq_setBlock_keeps_timer (of_decide_eq_false hi) _ s
  | intcInRequest => simp only [effect] at h; split at h <;> cases h; rfl
  | _ => cases h; rfl

/-- Settles O25, by the frame of each effect on either device. -/
theorem peripheralsAreIsolated : Obligations.PeripheralsAreIsolated := by
  intro i s t hexec
  obtain ⟨u, heffect, ht⟩ := exec_next hexec
  rw [ht]
  simp only [State.setResult_uart, State.setResult_txlog, State.setResult_timer]
  exact ⟨fun hi => effect_keeps_uart hi heffect, fun hi => effect_keeps_timer hi heffect⟩

end Sys2Proof.Machine
end

section
/-! SUPPORT. The step at each kind of stimulus (20_memory.md R41, R42, R48, R53): an operation word, the pending call, a bus access
and an instruction fetch inside a window, and the offset maps (R44). -/

namespace Sys2Proof.Machine

/-! ## R48: operation words and calls -/

theorem requestOf_operation {x : OpWord} {i : Instr} (hdecode : decode x = .ok i) (hi : internal i = false) (w : Wiring) :
    requestOf w (.operation x) = .op i := by
  simp [requestOf, hdecode, hi]

theorem callOf_internal {x : OpWord} {i : Instr} (hdecode : decode x = .ok i) (hi : internal i = true) : callOf x = .op i := by
  simp [callOf, hdecode, hi]

/-- A step with a call pending performs what the call requests, with the call taken. -/
theorem step_of_callOf {s : State} {x : OpWord} {i : Instr} (hcall : s.call = some x) (hx : callOf x = .op i) :
    step s = exec i { s with call := none } := by
  simp only [step, hcall, hx]
  rfl

/-- Settles O4, by the request of an operation word and that of a call. -/
theorem stepRunsDecodedOperation : Obligations.StepRunsDecodedOperation := by
  refine ⟨fun s w rest i hcall hinbox hdecode hi => ?_, fun s w i hcall hdecode hi => ?_⟩
  · have hstep := step_of_requestOf rest hcall (requestOf_operation hdecode hi s.cfg.wiring)
    rwa [← hinbox] at hstep
  · exact step_of_callOf hcall (callOf_internal hdecode hi)

/-! ## R41, R42: bus accesses -/

/-- The n bytes a bus write carries (20_memory.md R42), as the number they are. -/
theorem lowBytes_eq_ofNat (n : Nat) (v : Word) : lowBytes n v = BitVec.ofNat 32 (v.toNat % 2 ^ (8 * n)) :=
  Result.word.inj (readBytes_eq n v)

theorem step_memRead {s : State} (rest : List Stimulus) (hcall : s.call = none) {addr off : Nat} {d : Dev}
    (h : locate s.cfg.wiring addr = some (d, off)) (n : Nat) :
    step { s with inbox := .memRead addr n :: rest } = exec (regReadAt d off n) { s with inbox := rest } :=
  step_of_requestOf rest hcall (by simp only [requestOf, h])

theorem step_memWrite {s : State} (rest : List Stimulus) (hcall : s.call = none) {addr off : Nat} {d : Dev}
    (h : locate s.cfg.wiring addr = some (d, off)) (n : Nat) (v : Word) :
    step { s with inbox := .memWrite addr n v :: rest }
      = exec (regWriteAt d off n (BitVec.ofNat 32 (v.toNat % 2 ^ (8 * n)))) { s with inbox := rest } :=
  step_of_requestOf rest hcall (by simp only [requestOf, h, lowBytes_eq_ofNat])

/-- Settles O5: each window locates its own offsets, the timer's because a legal configuration keeps the windows apart. -/
theorem busAccessSelectsRegister : Obligations.BusAccessSelectsRegister := by
  intro s rest off n v hcall hlegal hoff
  obtain ⟨hwiring, -, -⟩ := (Config.legal_iff _).1 hlegal
  have huart := locate_uart hoff
  have htimer := locate_timer hwiring hoff
  exact ⟨step_memRead rest hcall huart n, step_memWrite rest hcall huart n v,
    step_memRead rest hcall htimer n, step_memWrite rest hcall htimer n v⟩

/-! ## R53: instruction fetches -/

/-- A step with no call pending refuses what the first stimulus may not request. -/
theorem step_of_requestOf_refuse {s : State} {x : Stimulus} {e : Refusal} (rest : List Stimulus) (hcall : s.call = none)
    (hx : requestOf s.cfg.wiring x = .refuse e) : step { s with inbox := x :: rest } = .refused e := by
  simp only [step, hcall, hx]
  rfl

/-- An address in the timer's window lies in a window, whether or not the windows overlap. -/
theorem exists_locate_timer {w : Wiring} {off : Nat} (h : off < w.windowSize) : ∃ p, locate w (w.timerBase + off) = some p := by
  unfold locate
  split
  · exact ⟨_, rfl⟩
  · exact ⟨_, if_pos (by omega)⟩

theorem step_instrFetch {s : State} (rest : List Stimulus) (hcall : s.call = none) {addr : Nat}
    (h : ∃ p, locate s.cfg.wiring addr = some p) :
    step { s with inbox := .instrFetch addr :: rest } = .refused .instructionFetch := by
  obtain ⟨p, hp⟩ := h
  exact step_of_requestOf_refuse rest hcall (by simp only [requestOf, hp])

/-- Settles O9: every offset of either window is located in a window, and a fetch from one is refused. -/
theorem instructionFetchIsRefused : Obligations.InstructionFetchIsRefused := by
  intro s rest off hcall hoff
  exact ⟨step_instrFetch rest hcall ⟨_, locate_uart hoff⟩, step_instrFetch rest hcall (exists_locate_timer hoff)⟩

/-! ## R44: the offset maps -/

theorem offsetListed_eq_false_iff (off : Nat) :
    offsetListed off = false ↔ off ∉ [0x00, 0x04, 0x08, 0x0C, 0x10, 0x14, 0x18, 0x1C] := by
  rw [← Bool.not_eq_true, offsetListed_iff]
  simp

/-- Settles O6: each map is evaluated at the eight listed offsets, and gives its catch-all row at an unlisted one. -/
theorem registerOffsetsMatchExactly : Obligations.RegisterOffsetsMatchExactly := by
  intro n v
  refine ⟨rfl, rfl, rfl, rfl, fun off hoff => ?_⟩
  have hunlisted := (offsetListed_eq_false_iff off).2 hoff
  exact ⟨uartReadAt_unlisted hunlisted n, uartWriteAt_unlisted hunlisted n v, timerReadAt_unlisted hunlisted n,
    timerWriteAt_unlisted hunlisted n v⟩

end Sys2Proof.Machine
end

section
/-! SUPPORT. The decoder and the encoder are inverse to each other (30_encoding.md R62 to R67; the operand fields are the model's,
assumption log 3). Both directions are said of the fields of a word, shape by shape, and carried over to words by `unpack_pack`
and `pack_unpack`. -/

namespace Sys2Proof

/-! ## The fields of each shape -/

@[simp] theorem dataFields_rsv (sel : BitVec 10) (v : Word) : (dataFields sel v).rsv = 0#2 := rfl
@[simp] theorem dataFields_data (sel : BitVec 10) (v : Word) : (dataFields sel v).data = v := rfl
@[simp] theorem writeFields_rsv (sel : BitVec 10) (n : Nat) (v : Word) : (writeFields sel n v).rsv = 0#2 := rfl
@[simp] theorem readFields_rsv (sel : BitVec 10) (n : Nat) : (readFields sel n).rsv = 0#2 := rfl
@[simp] theorem otherFields_rsv (base off n : Nat) (v : Word) : (otherFields base off n v).rsv = 0#2 := rfl
@[simp] theorem erbFields_rsv (sel : BitVec 10) (d : Dev) (v : Word) : (erbFields sel d v).rsv = 0#2 := rfl
@[simp] theorem erbFields_data (sel : BitVec 10) (d : Dev) (v : Word) : (erbFields sel d v).data = v := rfl
@[simp] theorem erbFields_dev (sel : BitVec 10) (d : Dev) (v : Word) : (erbFields sel d v).dev = d := by cases d <;> rfl

/-! ## The bus accesses of the dispatch -/

/-- Unit and kind `k` of the selector (30_encoding.md R62) are the bus reads of the offset map `mk`. -/
def BusReadsAt (k : Nat) (mk : Nat → Nat → Instr) : Prop :=
  ∀ f : OpFields, f.rsv = 0#2 → f.sel.toNat / 0x40 = k → decodeFields f = decodeBusRead mk f

/-- Unit and kind `k` of the selector are the bus writes of the offset map `mk`. -/
def BusWritesAt (k : Nat) (mk : Nat → Nat → Word → Instr) : Prop :=
  ∀ f : OpFields, f.rsv = 0#2 → f.sel.toNat / 0x40 = k → decodeFields f = decodeBusWrite mk f

theorem busReadsAt_uart : BusReadsAt 4 uartReadAt := fun f hrsv hunit => by simp [decodeFields, hrsv, hunit]
theorem busWritesAt_uart : BusWritesAt 5 uartWriteAt := fun f hrsv hunit => by simp [decodeFields, hrsv, hunit]
theorem busReadsAt_timer : BusReadsAt 8 timerReadAt := fun f hrsv hunit => by simp [decodeFields, hrsv, hunit]
theorem busWritesAt_timer : BusWritesAt 9 timerWriteAt := fun f hrsv hunit => by simp [decodeFields, hrsv, hunit]

/-- The EN write with data bit 0 set is the start (30_encoding.md R62). -/
theorem timerWriteAt_en_start {n : Nat} {v : Word} (h : v.getLsbD 0 = true) : timerWriteAt 0x08 n v = .timerWrEnStart n v :=
  if_pos h

/-- The EN write with data bit 0 clear is the stop. -/
theorem timerWriteAt_en_stop {n : Nat} {v : Word} (h : v.getLsbD 0 = false) : timerWriteAt 0x08 n v = .timerWrEnStop n v :=
  if_neg (by rw [h]; decide)

/-! ## From operations to words -/

section
variable {k n : Nat} {v : Word} {rd : Nat → Nat → Instr} {wr : Nat → Nat → Word → Instr}

theorem decodeFields_readFields (hrd : BusReadsAt k rd) {sel : BitVec 10} (hunit : sel.toNat / 0x40 = k)
    (hn : widthOk n = true) : decodeFields (readFields sel n) = .ok (rd (sel.toNat % 64) n) := by
  rw [hrd _ (readFields_rsv sel n) hunit, decodeBusRead_readFields rd sel hn]

theorem decodeFields_writeFields (hwr : BusWritesAt k wr) {sel : BitVec 10} (hunit : sel.toNat / 0x40 = k)
    (hn : widthOk n = true) (hv : dataFits n v = true) :
    decodeFields (writeFields sel n v) = .ok (wr (sel.toNat % 64) n v) := by
  rw [hwr _ (writeFields_rsv sel n v) hunit, decodeBusWrite_writeFields wr sel hn hv]

variable {base off : Nat} (hbase : base % 64 = 0) (hlt : base < 1024) (hunit : base / 64 = k) (ho : offsetOther off = true)
include hbase hlt hunit ho

theorem decodeFields_otherFields_read (hrd : BusReadsAt k rd) (hn : widthOk n = true) :
    decodeFields (otherFields base off n 0#32) = .ok (rd off n) := by
  obtain ⟨-, hsel⟩ := otherFields_off n 0#32 ho hbase hlt
  rw [hrd _ (otherFields_rsv ..) (hsel.trans hunit), decodeBusRead_otherFields rd ho hbase hlt hn]

theorem decodeFields_otherFields_write (hwr : BusWritesAt k wr) (hn : widthOk n = true) (hv : dataFits n v = true) :
    decodeFields (otherFields base off n v) = .ok (wr off n v) := by
  obtain ⟨-, hsel⟩ := otherFields_off n v ho hbase hlt
  rw [hwr _ (otherFields_rsv ..) (hsel.trans hunit), decodeBusWrite_otherFields wr ho hbase hlt hn hv]

end

theorem offsetListed_of_offsetOther {off : Nat} (ho : offsetOther off = true) : offsetListed off = false :=
  (Bool.not_eq_eq_eq_not ..).1 (Bool.and_elim_left ho)

theorem decodeData_dataFields (i : Instr) (sel : BitVec 10) (v : Word) : decodeData i (dataFields sel v) = .ok i := rfl

theorem decodeErbData_erbFields (i : Instr) (sel : BitVec 10) (d : Dev) (v : Word) :
    decodeErbData i (erbFields sel d v) = .ok i := rfl

/-- A byte is read back from the low data bits, and the data bits above it are zero. -/
theorem decodeUartIn_byte (b : Byte) :
    decodeUartIn (dataFields 0x180#10 (b.setWidth 32)) = .ok (.uartInByteReceived b) := by
  have hlt : (b.setWidth 32).toNat < 0x100 := by
    rw [BitVec.toNat_setWidth]
    exact lt_of_le_of_lt (Nat.mod_le _ _) b.isLt
  have hbyte : (b.setWidth 32).setWidth 8 = b := by
    rw [BitVec.setWidth_setWidth_of_le _ (by decide), BitVec.setWidth_eq]
  simp only [decodeUartIn, OpFields.idx, dataFields_sel, dataFields_data, BitVec.reduceToNat, Nat.reduceMod, hlt, ↓reduceIte,
    hbyte, decodeData_dataFields]

/-- A line number is read back from the data field and a level from its bit. -/
theorem decodeIntcIn_request {line : Nat} (hline : line < 2 ^ 32) (level : Bool) :
    decodeIntcIn (encodeFields (.intcInRequest line level)) = .ok (.intcInRequest line level) := by
  have hmod : line % 4294967296 = line := Nat.mod_eq_of_lt hline
  cases level <;> simp [decodeIntcIn, encodeFields, OpFields.idx, OpFields.level, hmod] <;> rfl

/-- The number of an event bit is read back from the data field. -/
theorem decodeErbEvent_signal {d : Dev} {bit : Nat} (hbit : bit < d.eventCount) :
    decodeErbEvent (encodeFields (.erbSignalEvent d bit)) = .ok (.erbSignalEvent d bit) := by
  have hfew : d.eventCount ≤ 2 := by cases d <;> decide
  have hmod : bit % 4294967296 = bit := Nat.mod_eq_of_lt (by omega)
  simp [decodeErbEvent, encodeFields, OpFields.idx, hmod, hbit, decodeErbData_erbFields]

/-- The fields of a well-formed operation are read as the operation: each row of the table has a unit, a kind and an index of its
own, the two EN rows differ by bit 0 of the data, and the operands of each shape are read back. -/
theorem decodeFields_encodeFields {i : Instr} (h : i.wellFormed = true) : decodeFields (encodeFields i) = .ok i := by
  cases i with
  | uartRdRxtx | uartRdTxfull | uartRdRxempty | uartRdEvStatus | uartRdEvPending | uartRdEvEnable | uartRdTxempty
  | uartRdRxfull => exact decodeFields_readFields busReadsAt_uart rfl h
  | timerRdLoad | timerRdReload | timerRdEn | timerRdUpdateValue | timerRdValue | timerRdEvStatus | timerRdEvPending
  | timerRdEvEnable => exact decodeFields_readFields busReadsAt_timer rfl h
  | uartWrRxtx | uartWrTxfull | uartWrRxempty | uartWrEvStatus | uartWrEvPending | uartWrEvEnable | uartWrTxempty
  | uartWrRxfull => exact decodeFields_writeFields busWritesAt_uart rfl (Bool.and_elim_left h) (Bool.and_elim_right h)
  | timerWrLoad | timerWrReload | timerWrUpdateValue | timerWrValue | timerWrEvStatus | timerWrEvPending
  | timerWrEvEnable => exact decodeFields_writeFields busWritesAt_timer rfl (Bool.and_elim_left h) (Bool.and_elim_right h)
  | timerWrEnStart n v =>
    simp only [Instr.wellFormed, Bool.and_eq_true] at h
    obtain ⟨⟨hn, hv⟩, hstart⟩ := h
    exact (decodeFields_writeFields busWritesAt_timer rfl hn hv).trans (congrArg Except.ok (timerWriteAt_en_start hstart))
  | timerWrEnStop n v =>
    simp only [Instr.wellFormed, Bool.and_eq_true, Bool.not_eq_true'] at h
    obtain ⟨⟨hn, hv⟩, hstop⟩ := h
    exact (decodeFields_writeFields busWritesAt_timer rfl hn hv).trans (congrArg Except.ok (timerWriteAt_en_stop hstop))
  | uartRdOther off n =>
    obtain ⟨ho, hn⟩ := Bool.and_eq_true_iff.1 h
    rw [encodeFields, ← uartReadAt_unlisted (offsetListed_of_offsetOther ho)]
    exact decodeFields_otherFields_read (base := 0x100) rfl (by decide) rfl ho busReadsAt_uart hn
  | timerRdOther off n =>
    obtain ⟨ho, hn⟩ := Bool.and_eq_true_iff.1 h
    rw [encodeFields, ← timerReadAt_unlisted (offsetListed_of_offsetOther ho)]
    exact decodeFields_otherFields_read (base := 0x200) rfl (by decide) rfl ho busReadsAt_timer hn
  | uartWrOther off n v =>
    simp only [Instr.wellFormed, Bool.and_eq_true] at h
    obtain ⟨⟨ho, hn⟩, hv⟩ := h
    rw [encodeFields, ← uartWriteAt_unlisted (offsetListed_of_offsetOther ho)]
    exact decodeFields_otherFields_write (base := 0x140) rfl (by decide) rfl ho busWritesAt_uart hn hv
  | timerWrOther off n v =>
    simp only [Instr.wellFormed, Bool.and_eq_true] at h
    obtain ⟨⟨ho, hn⟩, hv⟩ := h
    rw [encodeFields, ← timerWriteAt_unlisted (offsetListed_of_offsetOther ho)]
    exact decodeFields_otherFields_write (base := 0x240) rfl (by decide) rfl ho busWritesAt_timer hn hv
  | uartInByteReceived b => simpa [decodeFields, encodeFields] using decodeUartIn_byte b
  | intcInRequest line level => simpa [decodeFields, encodeFields] using decodeIntcIn_request (of_decide_eq_true h) level
  | erbSignalEvent d bit => simpa [decodeFields, encodeFields] using decodeErbEvent_signal (of_decide_eq_true h)
  | erbClearStatus d mask =>
    have hmask := of_decide_eq_true h
    simp [decodeFields, encodeFields, decodeErbEvent, OpFields.idx, hmask, decodeErbData_erbFields]
  | intcWrMIrqEnable | intcWrMIrqPending | intcWrSIrqEnable | intcWrSIrqPending =>
    simp [decodeFields, encodeFields, decodePseudoWrite, OpFields.idx, decodeData_dataFields]
  | erbClearPending | erbSetEnable =>
    simp [decodeFields, encodeFields, decodeErbWrite, OpFields.idx, decodeErbData_erbFields]
  | erbReadStatus d | erbReadPending d | erbReadEnable d | erbIrqLevel d => cases d <;> rfl
  | _ => rfl

/-- Settles O1: packing keeps the fields (`unpack_pack`), and the fields are read back. -/
theorem encodedOperationDecodes : Obligations.EncodedOperationDecodes := by
  intro i h
  rw [decode, encode, unpack_pack, decodeFields_encodeFields h]

/-! ## From words to operations -/

/-- The fields `f` are those of the well-formed operation `i`. -/
def OpFields.Encodes (f : OpFields) (i : Instr) : Prop := i.wellFormed = true ∧ encodeFields i = f

theorem whenZero_ok {c : Bool} {i j : Instr} (h : whenZero c i = .ok j) : c = true ∧ i = j := by
  unfold whenZero at h
  split at h
  · exact ⟨‹_›, Except.ok.inj h⟩
  · cases h

/-- The selector is its unit and kind and its index (30_encoding.md R62). -/
theorem OpFields.sel_eq {f : OpFields} {k m : Nat} (hunit : f.sel.toNat / 0x40 = k) (hidx : f.idx = m) :
    f.sel = BitVec.ofNat 10 (k * 0x40 + m) := by
  apply BitVec.eq_of_toNat_eq
  rw [← hunit, ← hidx, OpFields.idx, Nat.div_add_mod', BitVec.toNat_ofNat, Nat.mod_eq_of_lt f.sel.isLt]

theorem OpFields.dev_bit (f : OpFields) : f.dev.bit = f.inst := by
  rcases BitVec.eq_zero_or_eq_one f.inst with h | h <;> simp [OpFields.dev, Dev.bit, h]

theorem OpFields.ofBool_level (f : OpFields) : BitVec.ofBool f.level = f.lvl := by
  rcases BitVec.eq_zero_or_eq_one f.lvl with h | h <;> simp [OpFields.level, h]

theorem OpFields.widthOk_width (f : OpFields) : widthOk f.width = true := by
  have hlt := f.wid.isLt
  rw [Machine.widthOk_iff, OpFields.width]
  split
  · decide
  · rename_i hne
    have hpos : f.wid.toNat ≠ 0 := fun h0 => hne (BitVec.eq_of_toNat_eq h0)
    omega

/-- The width field is the width modulo 4: a width of 4 is written 0. -/
theorem OpFields.ofNat_width (f : OpFields) : BitVec.ofNat 2 f.width = f.wid := by
  rw [OpFields.width]
  split
  · rename_i hzero
    exact hzero.symm
  · rw [BitVec.ofNat_toNat, BitVec.setWidth_eq]

/-- Fields with no bus operand are the selector, the device, the level and the data. -/
theorem OpFields.eq_of_noBus {f : OpFields} (hrsv : f.rsv = 0#2) (hbus : f.noBus = true) :
    { dataFields f.sel f.data with inst := f.inst, lvl := f.lvl } = f := by
  obtain ⟨sel, wid, inst, lvl, rsv, data, ext⟩ := f
  obtain ⟨hwid, hext⟩ : wid = 0#2 ∧ ext = 0#64 := by simpa [OpFields.noBus] using hbus
  cases hrsv
  cases hwid
  cases hext
  rfl

theorem OpFields.noInput_iff {f : OpFields} : f.noInput = true ↔ f.inst = 0#1 ∧ f.lvl = 0#1 := by
  simp [OpFields.noInput]

section
variable {f : OpFields} {i j : Instr} {sel : BitVec 10}

theorem decodeData_encodes (hrsv : f.rsv = 0#2) (hsel : f.sel = sel) (hwf : i.wellFormed = true)
    (henc : encodeFields i = dataFields sel f.data) (h : decodeData i f = .ok j) : f.Encodes j := by
  obtain ⟨hzero, rfl⟩ := whenZero_ok h
  obtain ⟨hbus, hinput⟩ := Bool.and_eq_true_iff.1 hzero
  obtain ⟨hinst, hlvl⟩ := OpFields.noInput_iff.1 hinput
  have hf := OpFields.eq_of_noBus hrsv hbus
  rw [hinst, hlvl, hsel] at hf
  exact ⟨hwf, henc.trans hf⟩

theorem decodeBare_encodes (hrsv : f.rsv = 0#2) (hsel : f.sel = sel) (hwf : i.wellFormed = true)
    (henc : encodeFields i = bareFields sel) (h : decodeBare i f = .ok j) : f.Encodes j := by
  obtain ⟨hzero, rfl⟩ := whenZero_ok h
  obtain ⟨hnone, hdata⟩ := Bool.and_eq_true_iff.1 hzero
  have hdata0 := of_decide_eq_true hdata
  refine decodeData_encodes hrsv hsel hwf ?_ (if_pos hnone)
  rw [hdata0]
  exact henc

theorem decodeErbData_encodes (hrsv : f.rsv = 0#2) (hsel : f.sel = sel) (hwf : i.wellFormed = true)
    (henc : encodeFields i = erbFields sel f.dev f.data) (h : decodeErbData i f = .ok j) : f.Encodes j := by
  obtain ⟨hzero, rfl⟩ := whenZero_ok h
  obtain ⟨hbus, hlvl⟩ := Bool.and_eq_true_iff.1 hzero
  have hf := OpFields.eq_of_noBus hrsv hbus
  rw [of_decide_eq_true hlvl, ← f.dev_bit, hsel] at hf
  exact ⟨hwf, henc.trans hf⟩

theorem decodeErb_encodes (hrsv : f.rsv = 0#2) (hsel : f.sel = sel) (hwf : i.wellFormed = true)
    (henc : encodeFields i = erbFields sel f.dev 0#32) (h : decodeErb i f = .ok j) : f.Encodes j := by
  obtain ⟨hzero, rfl⟩ := whenZero_ok h
  obtain ⟨hnone, hdata⟩ := Bool.and_eq_true_iff.1 hzero
  have hdata0 := of_decide_eq_true hdata
  refine decodeErbData_encodes hrsv hsel hwf ?_ (if_pos hnone)
  rw [hdata0]
  exact henc

end

/-! ### The operations without a bus access, unit by unit -/

section
variable {f : OpFields} {i : Instr}

theorem decodeErbRead_encodes (hrsv : f.rsv = 0#2) (hunit : f.sel.toNat / 0x40 = 0) (h : decodeErbRead f = .ok i) :
    f.Encodes i := by
  unfold decodeErbRead at h
  split at h
  case h_5 => cases h
  all_goals exact decodeErb_encodes hrsv (f.sel_eq hunit ‹_›) rfl rfl h

theorem decodeErbWrite_encodes (hrsv : f.rsv = 0#2) (hunit : f.sel.toNat / 0x40 = 1) (h : decodeErbWrite f = .ok i) :
    f.Encodes i := by
  unfold decodeErbWrite at h
  split at h
  case h_3 => cases h
  all_goals exact decodeErbData_encodes hrsv (f.sel_eq hunit ‹_›) rfl rfl h

theorem decodeErbEvent_encodes (hrsv : f.rsv = 0#2) (hunit : f.sel.toNat / 0x40 = 2) (h : decodeErbEvent f = .ok i) :
    f.Encodes i := by
  unfold decodeErbEvent at h
  split at h
  · split at h
    · rename_i hbit
      have hwf : (Instr.erbSignalEvent f.dev f.data.toNat).wellFormed = true := decide_eq_true hbit
      refine decodeErbData_encodes hrsv (f.sel_eq hunit ‹_›) hwf ?_ h
      simp [encodeFields]
    · cases h
  · split at h
    · rename_i hmask
      have hwf : (Instr.erbClearStatus f.dev f.data).wellFormed = true := decide_eq_true hmask
      exact decodeErbData_encodes hrsv (f.sel_eq hunit ‹_›) hwf rfl h
    · cases h
  · cases h

theorem decodeUartIn_encodes (hrsv : f.rsv = 0#2) (hunit : f.sel.toNat / 0x40 = 6) (h : decodeUartIn f = .ok i) :
    f.Encodes i := by
  unfold decodeUartIn at h
  split at h
  · split at h
    · rename_i hlt
      have hdata : (f.data.setWidth 8).setWidth 32 = f.data := by
        apply BitVec.eq_of_toNat_eq
        rw [BitVec.toNat_setWidth, BitVec.toNat_setWidth]
        omega
      refine decodeData_encodes hrsv (f.sel_eq hunit ‹_›) rfl ?_ h
      simp [encodeFields, hdata]
    · cases h
  · exact decodeBare_encodes hrsv (f.sel_eq hunit ‹_›) rfl rfl h
  · cases h

theorem decodeTimerIn_encodes (hrsv : f.rsv = 0#2) (hunit : f.sel.toNat / 0x40 = 10) (h : decodeTimerIn f = .ok i) :
    f.Encodes i := by
  unfold decodeTimerIn at h
  split at h
  case h_3 => cases h
  all_goals exact decodeBare_encodes hrsv (f.sel_eq hunit ‹_›) rfl rfl h

theorem decodePseudoRead_encodes (hrsv : f.rsv = 0#2) (hunit : f.sel.toNat / 0x40 = 12) (h : decodePseudoRead f = .ok i) :
    f.Encodes i := by
  unfold decodePseudoRead at h
  split at h
  case h_5 => cases h
  all_goals exact decodeBare_encodes hrsv (f.sel_eq hunit ‹_›) rfl rfl h

theorem decodePseudoWrite_encodes (hrsv : f.rsv = 0#2) (hunit : f.sel.toNat / 0x40 = 13) (h : decodePseudoWrite f = .ok i) :
    f.Encodes i := by
  unfold decodePseudoWrite at h
  split at h
  case h_5 => cases h
  all_goals exact decodeData_encodes hrsv (f.sel_eq hunit ‹_›) rfl rfl h

theorem decodeIntcIn_encodes (hrsv : f.rsv = 0#2) (hunit : f.sel.toNat / 0x40 = 14) (h : decodeIntcIn f = .ok i) :
    f.Encodes i := by
  unfold decodeIntcIn at h
  split at h
  · obtain ⟨hzero, rfl⟩ := whenZero_ok h
    obtain ⟨hbus, hinst⟩ := Bool.and_eq_true_iff.1 hzero
    have hf := OpFields.eq_of_noBus hrsv hbus
    rw [of_decide_eq_true hinst, f.sel_eq hunit ‹_›, ← f.ofBool_level] at hf
    refine ⟨decide_eq_true f.data.isLt, Eq.trans ?_ hf⟩
    simp only [encodeFields, BitVec.ofNat_toNat, BitVec.setWidth_eq]
    rfl
  · cases h

/-- A reset's unit and kind give its selector, the index being 0. -/
theorem decodeReset_encodes {r : Instr} {k : Nat} (hrsv : f.rsv = 0#2) (hunit : f.sel.toNat / 0x40 = k)
    (hwf : r.wellFormed = true) (henc : encodeFields r = bareFields (BitVec.ofNat 10 (k * 0x40 + 0)))
    (h : decodeReset r f = .ok i) : f.Encodes i := by
  unfold decodeReset at h
  split at h
  · exact decodeBare_encodes hrsv (f.sel_eq hunit ‹_›) hwf henc h
  · cases h

end

/-! ### The bus accesses

At a listed offset the encoder's fields are those of an unlisted one with the extension zero, so one equation of fields covers
both. -/

section
variable {off n : Nat} {v : Word}

theorem offsetOther_of_unlisted (hoff : off < 2 ^ 70) (h : offsetListed off = false) : offsetOther off = true := by
  rw [offsetOther, h, decide_eq_true hoff]
  rfl

theorem otherFields_encodes_uartReadAt (hoff : off < 2 ^ 70) (hn : widthOk n = true) :
    (otherFields 0x100 off n 0#32).Encodes (uartReadAt off n) := by
  cases h : offsetListed off with
  | true => rcases (offsetListed_iff off).1 h with rfl | rfl | rfl | rfl | rfl | rfl | rfl | rfl <;> exact ⟨hn, rfl⟩
  | false =>
    rw [uartReadAt_unlisted h]
    exact ⟨Bool.and_eq_true_iff.2 ⟨offsetOther_of_unlisted hoff h, hn⟩, rfl⟩

theorem otherFields_encodes_timerReadAt (hoff : off < 2 ^ 70) (hn : widthOk n = true) :
    (otherFields 0x200 off n 0#32).Encodes (timerReadAt off n) := by
  cases h : offsetListed off with
  | true => rcases (offsetListed_iff off).1 h with rfl | rfl | rfl | rfl | rfl | rfl | rfl | rfl <;> exact ⟨hn, rfl⟩
  | false =>
    rw [timerReadAt_unlisted h]
    exact ⟨Bool.and_eq_true_iff.2 ⟨offsetOther_of_unlisted hoff h, hn⟩, rfl⟩

theorem otherFields_encodes_uartWriteAt (hoff : off < 2 ^ 70) (hn : widthOk n = true) (hv : dataFits n v = true) :
    (otherFields 0x140 off n v).Encodes (uartWriteAt off n v) := by
  have hnv : (widthOk n && dataFits n v) = true := Bool.and_eq_true_iff.2 ⟨hn, hv⟩
  cases h : offsetListed off with
  | true => rcases (offsetListed_iff off).1 h with rfl | rfl | rfl | rfl | rfl | rfl | rfl | rfl <;> exact ⟨hnv, rfl⟩
  | false =>
    rw [uartWriteAt_unlisted h]
    exact ⟨by simp [Instr.wellFormed, offsetOther_of_unlisted hoff h, hn, hv], rfl⟩

/-- The EN write at offset 8 is the start or the stop by bit 0 of its data; both rows have one selector. -/
theorem otherFields_encodes_timerWriteAt (hoff : off < 2 ^ 70) (hn : widthOk n = true) (hv : dataFits n v = true) :
    (otherFields 0x240 off n v).Encodes (timerWriteAt off n v) := by
  have hnv : (widthOk n && dataFits n v) = true := Bool.and_eq_true_iff.2 ⟨hn, hv⟩
  cases h : offsetListed off with
  | true =>
    rcases (offsetListed_iff off).1 h with rfl | rfl | rfl | rfl | rfl | rfl | rfl | rfl
    case inr.inr.inl =>
      cases hbit : v.getLsbD 0 with
      | true =>
        rw [timerWriteAt_en_start hbit]
        exact ⟨Bool.and_eq_true_iff.2 ⟨hnv, hbit⟩, rfl⟩
      | false =>
        rw [timerWriteAt_en_stop hbit]
        exact ⟨Bool.and_eq_true_iff.2 ⟨hnv, by rw [hbit]; rfl⟩, rfl⟩
    all_goals exact ⟨hnv, rfl⟩
  | false =>
    rw [timerWriteAt_unlisted h]
    exact ⟨by simp [Instr.wellFormed, offsetOther_of_unlisted hoff h, hn, hv], rfl⟩

end

section
variable {f : OpFields} {i : Instr} {base : Nat}

theorem OpFields.off_lt (f : OpFields) : f.off < 2 ^ 70 := by
  have hext := f.ext.isLt
  unfold OpFields.off OpFields.idx
  omega

/-- The fields of a bus access are those of its offset, width and data. -/
theorem OpFields.eq_otherFields (hrsv : f.rsv = 0#2) (hinput : f.noInput = true) (hunit : f.sel.toNat / 0x40 = base / 0x40)
    (hbase : base % 0x40 = 0) : otherFields base f.off f.width f.data = f := by
  have hsel : BitVec.ofNat 10 (base + f.off % 0x40) = f.sel := by
    rw [show base + f.off % 0x40 = f.sel.toNat by unfold OpFields.off OpFields.idx; omega,
      BitVec.ofNat_toNat, BitVec.setWidth_eq]
  have hext : BitVec.ofNat 64 (f.off / 0x40) = f.ext := by
    rw [show f.off / 0x40 = f.ext.toNat by unfold OpFields.off OpFields.idx; omega,
      BitVec.ofNat_toNat, BitVec.setWidth_eq]
  obtain ⟨hinst, hlvl⟩ := OpFields.noInput_iff.1 hinput
  rw [otherFields, hsel, hext, writeFields, f.ofNat_width]
  obtain ⟨sel, wid, inst, lvl, rsv, data, ext⟩ := f
  cases hrsv
  cases hinst
  cases hlvl
  rfl

theorem decodeBusRead_encodes {mk : Nat → Nat → Instr} (hrsv : f.rsv = 0#2) (hunit : f.sel.toNat / 0x40 = base / 0x40)
    (hbase : base % 0x40 = 0)
    (hmk : ∀ {off n}, off < 2 ^ 70 → widthOk n = true → (otherFields base off n 0#32).Encodes (mk off n))
    (h : decodeBusRead mk f = .ok i) : f.Encodes i := by
  obtain ⟨hzero, rfl⟩ := whenZero_ok h
  obtain ⟨hinput, hdata⟩ := Bool.and_eq_true_iff.1 hzero
  have hf := OpFields.eq_otherFields hrsv hinput hunit hbase
  rw [of_decide_eq_true hdata] at hf
  have henc := hmk f.off_lt f.widthOk_width
  rwa [hf] at henc

theorem decodeBusWrite_encodes {mk : Nat → Nat → Word → Instr} (hrsv : f.rsv = 0#2)
    (hunit : f.sel.toNat / 0x40 = base / 0x40) (hbase : base % 0x40 = 0)
    (hmk : ∀ {off n v}, off < 2 ^ 70 → widthOk n = true → dataFits n v = true →
      (otherFields base off n v).Encodes (mk off n v))
    (h : decodeBusWrite mk f = .ok i) : f.Encodes i := by
  unfold decodeBusWrite at h
  split at h
  · rename_i hfits
    obtain ⟨hinput, rfl⟩ := whenZero_ok h
    have henc := hmk f.off_lt f.widthOk_width hfits
    rwa [OpFields.eq_otherFields hrsv hinput hunit hbase] at henc
  · cases h

/-- Fields that are read as an operation are the fields of it: one case per unit and kind of the selector. -/
theorem decodeFields_encodes (h : decodeFields f = .ok i) : f.Encodes i := by
  unfold decodeFields at h
  split at h
  · rename_i hrsv
    split at h <;> rename_i hunit
    · exact decodeErbRead_encodes hrsv hunit h
    · exact decodeErbWrite_encodes hrsv hunit h
    · exact decodeErbEvent_encodes hrsv hunit h
    · exact decodeReset_encodes hrsv hunit rfl rfl h
    · exact decodeBusRead_encodes (base := 0x100) hrsv hunit rfl otherFields_encodes_uartReadAt h
    · exact decodeBusWrite_encodes (base := 0x140) hrsv hunit rfl otherFields_encodes_uartWriteAt h
    · exact decodeUartIn_encodes hrsv hunit h
    · exact decodeReset_encodes hrsv hunit rfl rfl h
    · exact decodeBusRead_encodes (base := 0x200) hrsv hunit rfl otherFields_encodes_timerReadAt h
    · exact decodeBusWrite_encodes (base := 0x240) hrsv hunit rfl otherFields_encodes_timerWriteAt h
    · exact decodeTimerIn_encodes hrsv hunit h
    · exact decodeReset_encodes hrsv hunit rfl rfl h
    · exact decodePseudoRead_encodes hrsv hunit h
    · exact decodePseudoWrite_encodes hrsv hunit h
    · exact decodeIntcIn_encodes hrsv hunit h
    · exact decodeReset_encodes hrsv hunit rfl rfl h
    · cases h
  · cases h

end

/-- Settles O2: the fields of the word are those of the operation, and a word is the word of its fields (`pack_unpack`). -/
theorem decodedWordIsItsEncoding : Obligations.DecodedWordIsItsEncoding := by
  intro w i h
  obtain ⟨hwf, henc⟩ := decodeFields_encodes h
  exact ⟨hwf, by rw [encode, henc, pack_unpack]⟩

/-! ## Sample words -/

/-- Settles O3: the decoder is evaluated at each of the eight words. -/
theorem sampleWordsDecode : Obligations.SampleWordsDecode :=
  ⟨rfl, rfl, rfl, rfl, rfl, rfl, rfl, rfl⟩

end Sys2Proof
end

section
/-! SUPPORT. The stimuli that perform nothing (30_encoding.md R60, R64): the word of an internal operation, which the step refuses,
and what is no access to the block, which it takes and leaves without effect (assumption logs 4, 6, 7). -/

namespace Sys2Proof.Machine

/-! ## R60, R64: internal operations -/

theorem requestOf_internal {x : OpWord} {i : Instr} (hdecode : decode x = .ok i) (hi : internal i = true) (w : Wiring) :
    requestOf w (.operation x) = .refuse .wrongCaller := by
  simp [requestOf, hdecode, hi]

/-- Settles O60: a stimulus's request is refused or of an agent's operation (`requestOf_op`), and a step leaves no call pending. -/
theorem internalOperationsAreNotReachable : Obligations.InternalOperationsAreNotReachable := by
  refine ⟨fun s w rest i hcall hinbox hdecode hi => ?_, fun _ _ _ => requestOf_op, fun _ => rfl, fun _ _ => step_call⟩
  have hstep := step_of_requestOf_refuse rest hcall (requestOf_internal hdecode hi s.cfg.wiring)
  rwa [← hinbox] at hstep

/-! ## R60: stimuli that are no access to the block -/

/-- A step with no call pending only takes a first stimulus that is no access to the block (assumption log 6). -/
theorem step_of_requestOf_elsewhere {s : State} {x : Stimulus} (rest : List Stimulus) (hcall : s.call = none)
    (hx : requestOf s.cfg.wiring x = .elsewhere) :
    step { s with inbox := x :: rest } = .next { s with inbox := rest, result := .nothing } := by
  simp only [step, hcall, hx]
  rfl

/-- An address that is no offset from either base is in neither window. -/
theorem locate_eq_none {w : Wiring} {addr : Nat}
    (h : ∀ off < w.windowSize, addr ≠ w.uartBase + off ∧ addr ≠ w.timerBase + off) : locate w addr = none := by
  have huart : ¬(w.uartBase ≤ addr ∧ addr < w.uartBase + w.windowSize) := by
    rintro ⟨hle, hlt⟩
    exact (h (addr - w.uartBase) (by omega)).1 (by omega)
  have htimer : ¬(w.timerBase ≤ addr ∧ addr < w.timerBase + w.windowSize) := by
    rintro ⟨hle, hlt⟩
    exact (h (addr - w.timerBase) (by omega)).2 (by omega)
  rw [locate, if_neg huart, if_neg htimer]

theorem pseudoOf_eq_none {w : Wiring} {id : Nat}
    (h : id ∉ [w.mIrqEnableId, w.mIrqPendingId, w.sIrqEnableId, w.sIrqPendingId]) : pseudoOf w id = none := by
  simp only [List.mem_cons, List.not_mem_nil, or_false, not_or] at h
  obtain ⟨hmE, hmP, hsE, hsP⟩ := h
  simp [pseudoOf, hmE, hmP, hsE, hsP]

/-- A bus access or an instruction fetch at an address in no window is no access to the block. -/
theorem requestOf_unlocated {w : Wiring} {a n : Nat} {v : Word} {x : Stimulus} (h : locate w a = none)
    (hx : x ∈ [Stimulus.memRead a n, .memWrite a n v, .instrFetch a]) : requestOf w x = .elsewhere := by
  simp only [List.mem_cons, List.not_mem_nil, or_false] at hx
  rcases hx with rfl | rfl | rfl <;> simp only [requestOf, h]

/-- An access to a control register that is no pseudo-register is no access to the block. -/
theorem requestOf_noPseudo {w : Wiring} {id : Nat} {v : Word} {x : Stimulus} (h : pseudoOf w id = none)
    (hx : x ∈ [Stimulus.pseudoRead id, .pseudoWrite id v]) : requestOf w x = .elsewhere := by
  simp only [List.mem_cons, List.not_mem_nil, or_false] at hx
  rcases hx with rfl | rfl <;> simp only [requestOf, h]

/-- Settles O8: a step with nothing to take is the identity, and the other stimuli are requests elsewhere. -/
theorem stimulusOutsideTheBlockChangesNothing : Obligations.StimulusOutsideTheBlockChangesNothing := by
  refine ⟨fun s hcall hinbox => ?_, fun s rest a n v x hcall ha hx => ?_, fun s rest id v x hcall hid hx => ?_⟩
  · simp only [step, hcall, hinbox]
  · exact step_of_requestOf_elsewhere rest hcall (requestOf_unlocated (locate_eq_none ha) hx)
  · exact step_of_requestOf_elsewhere rest hcall (requestOf_noPseudo (pseudoOf_eq_none hid) hx)

end Sys2Proof.Machine
end

section
/-! SUPPORT. The laws of the triplet (40_event_register_block.md R80 to R93): the enable write of mode (b), what an event set and
cleared while disabled leaves, and why an enable write and an event commute. A run of UART operations that drive the line is one
update of the triplet and the receive cell with one drive at its end (`settleUart`). -/

namespace Sys2Proof.Machine

/-! ## R80 to R83: the reads -/

/-- `irq_level()` returns the level of the instance's mode (R83, R89). -/
theorem exec_erbIrqLevel (d : Dev) (s : State) :
    exec (.erbIrqLevel d) s = .next { s with result := .flag (lineLevel (blockConfig s.cfg d).mode (s.block d)) } := by
  rw [← irqLevel_eq_lineLevel]
  rfl

/-- Settles O29: each of the three field reads returns its field by definition, and the level is `exec_erbIrqLevel`. -/
theorem tripletReadsReturnTheFields : Obligations.TripletReadsReturnTheFields :=
  fun s => ⟨rfl, rfl, rfl, exec_erbIrqLevel .uart s, rfl, rfl, rfl, exec_erbIrqLevel .timer s⟩

/-! ## R86, R87: signals and status clears -/

/-- An operation that completes as a triplet operation of the UART: the line is driven, and the receive cell, `TXLOG` and the draws
stay. -/
theorem exists_uartDriven {i : Instr} {e : EventBlock} {s : State}
    (h : exec i s = .next ((driveIrq .uart (s.setBlock .uart e)).setResult .nothing)) :
    ∃ t, exec i s = .next t ∧ UartDriven e s t ∧ t.uart.rx = s.uart.rx ∧ t.txlog = s.txlog ∧ t.draws = s.draws :=
  ⟨_, h, uartDriven_driveIrq e s, rfl, rfl, rfl⟩

/-- An operation that completes as a triplet operation of the timer: the line is driven, and the engine stays. -/
theorem exists_timerDriven {i : Instr} {e : EventBlock} {s : State}
    (h : exec i s = .next ((driveIrq .timer (s.setBlock .timer e)).setResult .nothing)) :
    ∃ t, exec i s = .next t ∧ TimerDriven e s t ∧ t.timer = { s.timer with block := t.timer.block, irqOut := t.timer.irqOut } :=
  ⟨_, h, timerDriven_driveIrq e s, rfl⟩

theorem exec_erbSignalEvent {d : Dev} {bit : Nat} (hbit : bit < d.eventCount) (s : State) :
    exec (.erbSignalEvent d bit) s
      = .next ((driveIrq d (s.setBlock d ((s.block d).signalEvent (blockConfig s.cfg d) (eventMask bit)))).setResult .nothing) :=
  if_pos hbit

theorem exec_erbSignalEvent_undefined {d : Dev} {bit : Nat} (hbit : d.eventCount ≤ bit) (s : State) :
    exec (.erbSignalEvent d bit) s = .refused .undefinedEvent :=
  (exec_refused_iff rfl).2 (.signal d bit hbit)

theorem eventMask_eq_twoPow (bit : Nat) : eventMask bit = BitVec.twoPow 32 bit := rfl

/-- Settles O30: a defined bit is signalled and the line driven; on the timer, whose one event is bit 0, always latched. -/
theorem signalledEventIsLatchedByMode : Obligations.SignalledEventIsLatchedByMode := by
  refine fun s bit => ⟨fun huart => ?_, fun htimer => ?_, fun h => exec_erbSignalEvent_undefined h s,
    fun h => exec_erbSignalEvent_undefined h s⟩
  · have hexec := exec_erbSignalEvent (d := .uart) huart s
    rw [signalEvent_uart, eventMask_eq_twoPow] at hexec
    exact exists_uartDriven hexec
  · obtain rfl : bit = 0 := Nat.lt_one_iff.1 htimer
    exact exists_timerDriven (exec_erbSignalEvent (d := .timer) htimer s)

/-- Settles O31: `clear_status` writes the status field alone and drives the line. -/
theorem clearStatusLeavesPending : Obligations.ClearStatusLeavesPending :=
  fun _ _ => ⟨exists_uartDriven rfl, exists_timerDriven rfl⟩

/-! ## R90: the enable write of mode (b) -/

/-- The law of R90 on any instance in mode (b). Bit by bit, the premise says of default re-latching that an enabled and active bit is
pending already, so that re-latching it too would change nothing. -/
theorem EventBlock.setEnable_pending_law {c : BlockConfig} (hB : c.mode = .B) {m : Word} {e : EventBlock}
    (h : c.relatch = .allEnabled ∨ e.enable &&& (m &&& c.evMask) &&& e.status &&& ~~~e.pending = 0#32) :
    (e.setEnable c m).pending = (e.pending &&& (m &&& c.evMask)) ||| (e.status &&& (m &&& c.evMask)) := by
  rw [setEnable_pending_B c hB]
  generalize m &&& c.evMask = ne at h ⊢
  refine BitVec.eq_of_getLsbD_eq fun k hk => ?_
  cases hr : c.relatch with
  | allEnabled =>
    simp only [relatchCandidates_all, BitVec.getLsbD_and, BitVec.getLsbD_or]
    grind
  | newlyEnabled =>
    have hzero : e.enable &&& ne &&& e.status &&& ~~~e.pending = 0#32 := by simpa [hr] using h
    have hbit := congrArg (·.getLsbD k) hzero
    simp only [BitVec.getLsbD_and, BitVec.getLsbD_not, hk, decide_true, Bool.true_and, BitVec.getLsbD_zero] at hbit
    simp only [relatchCandidates_newly, BitVec.getLsbD_and, BitVec.getLsbD_or, BitVec.getLsbD_not, hk, decide_true, Bool.true_and]
    grind

/-- Settles O32: the law on the UART's instance. -/
theorem enableWriteLawOfModeB : Obligations.EnableWriteLawOfModeB := by
  intro s t m hB hexec h
  rw [complete_next hexec]
  exact EventBlock.setEnable_pending_law (c := blockConfig s.cfg .uart) hB h

/-! ## One drive at the end of a run of UART operations -/

/-- The UART with the triplet `e` and the byte `x` in its receive cell, its line driven with the level of `e`. -/
def settleUart (e : EventBlock) (x : Byte) (s : State) : State :=
  driveIrq .uart (s.setUart { s.uart with block := e, rx := x })

@[simp] theorem settleUart_cfg (e : EventBlock) (x : Byte) (s : State) : (settleUart e x s).cfg = s.cfg := rfl
@[simp] theorem settleUart_block (e : EventBlock) (x : Byte) (s : State) : (settleUart e x s).uart.block = e := rfl
@[simp] theorem settleUart_rx (e : EventBlock) (x : Byte) (s : State) : (settleUart e x s).uart.rx = x := rfl

theorem settleUart_irqOut (e : EventBlock) (x : Byte) (s : State) :
    (settleUart e x s).uart.irqOut = lineLevel s.cfg.uartMode e :=
  irqLevel_eq_lineLevel _ _

/-- The controller after one line took a level is determined: its pending bits, its masks, and the outputs that follow them. -/
theorem lineDriven_unique {i : Nat} {l : Bool} {c c₁ c₂ : Intc} (h₁ : LineDriven i l c c₁) (h₂ : LineDriven i l c c₂) :
    c₁ = c₂ := by
  obtain ⟨hbits₁, hm₁, hs₁, hmOut₁, hsOut₁⟩ := h₁
  obtain ⟨hbits₂, hm₂, hs₂, hmOut₂, hsOut₂⟩ := h₂
  have hbits : c₁.pendingBits = c₂.pendingBits :=
    BitVec.eq_of_getLsbD_eq fun k hk => (hbits₁ k hk).trans (hbits₂ k hk).symm
  rw [hbits, hm₁, ← hm₂] at hmOut₁
  rw [hbits, hs₁, ← hs₂] at hsOut₁
  cases c₁
  cases c₂
  exact (Intc.mk.injEq ..).mpr
    ⟨hbits, hm₁.trans hm₂.symm, hs₁.trans hs₂.symm, hmOut₁.trans hmOut₂.symm, hsOut₁.trans hsOut₂.symm⟩

/-- Of two levels driven on one line the controller holds the second (43_interrupt_controller.md R170). -/
theorem setLine_setLine (i : Nat) (l l' : Bool) (c : Intc) : (c.setLine i l).setLine i l' = c.setLine i l' := by
  refine lineDriven_unique (i := i) (l := l') (c := c) ⟨fun k hk => ?_, rfl, rfl, recompute_outputs _⟩ (setLine_driven i l' c)
  rw [setLine_getLsbD _ _ _ k hk, setLine_getLsbD _ _ _ k hk]
  split <;> rfl

/-- Only the last drive of the UART's line, and the last value returned, are left. -/
theorem settleUart_settleUart (e e' : EventBlock) (x x' : Byte) (r r' : Result) (s : State) :
    (settleUart e' x' ((settleUart e x s).setResult r)).setResult r' = (settleUart e' x' s).setResult r' := by
  have hline := setLine_setLine s.cfg.wiring.uartIrqLine (e.irqLevel (blockConfig s.cfg .uart))
    (e'.irqLevel (blockConfig s.cfg .uart)) s.intc
  exact congrArg (fun c => ((settleUart e' x' s).setIntc c).setResult r') hline

theorem exec_uartWrEvEnable {n : Nat} {v : Word} (hn : widthOk n = true) (hv : v.toNat < 2 ^ (8 * n)) (s : State) :
    exec (.uartWrEvEnable n v) s
      = .next ((settleUart (s.uart.block.setEnable (blockConfig s.cfg .uart) v) s.uart.rx s).setResult .nothing) := by
  show busWrite n (setEnable .uart (lowBytes n v) s) = _
  rw [lowBytes_of_lt hv, busWrite_ok hn]
  rfl

theorem exec_uartInByteReceived (b : Byte) (s : State) :
    exec (.uartInByteReceived b) s
      = .next ((settleUart (s.uart.block.signalEvent (blockConfig s.cfg .uart) evRx) b s).setResult .nothing) := rfl

theorem exec_uartRdRxtx {n : Nat} (hn : widthOk n = true) (s : State) :
    exec (.uartRdRxtx n) s
      = .next ((settleUart (s.uart.block.clearStatus evRx) s.uart.rx s).setResult (readBytes n (zextByte s.uart.rx))) :=
  busRead_ok hn _ _

/-! ## R92: an event set and cleared while disabled -/

/-- The triplet after the events `b` were disabled, signalled, cleared from status and enabled again. -/
def EventBlock.momentary (c : BlockConfig) (b : Word) (e : EventBlock) : EventBlock :=
  (((e.setEnable c 0#32).signalEvent c b).clearStatus b).setEnable c b

theorem EventBlock.momentary_enable (c : BlockConfig) (b : Word) (e : EventBlock) : (e.momentary c b).enable = b &&& c.evMask :=
  setEnable_enable c b _

/-- Mode (a) latches the event whether or not it is enabled (R86), and an enable write leaves it (R85). -/
theorem EventBlock.momentary_pending_A {c : BlockConfig} (hA : c.mode = .A) (b : Word) (e : EventBlock) :
    (e.momentary c b).pending = e.pending ||| b := by
  rw [momentary, setEnable_pending_A c hA, clearStatus_pending, signalEvent_pending_A c hA, setEnable_pending_A c hA]

/-- Mode (b) drops what was pending when it disables, latches nothing while disabled, and at the enable write finds no status to
re-latch. -/
theorem EventBlock.momentary_pending_B {c : BlockConfig} (hB : c.mode = .B) (b : Word) (e : EventBlock) :
    (e.momentary c b).pending = 0#32 := by
  have hdisabled : ((e.setEnable c 0#32).signalEvent c b).pending = 0#32 := by
    simp [signalEvent_pending_B c hB, setEnable_pending_B c hB]
  rw [momentary, setEnable_pending_B c hB, clearStatus_pending, hdisabled, clearStatus_status, BitVec.zero_or]
  refine BitVec.eq_of_getLsbD_eq fun k _ => ?_
  simp only [BitVec.getLsbD_and, BitVec.getLsbD_not, BitVec.getLsbD_zero]
  grind

/-- The four operations of R92 are one update of the UART. -/
theorem exec_momentary_rx (s : State) (b : Byte) : ∃ t1 t2 t3,
    exec (.uartWrEvEnable 4 0#32) s = .next t1 ∧ exec (.uartInByteReceived b) t1 = .next t2
      ∧ exec (.uartRdRxtx 4) t2 = .next t3
      ∧ exec (.uartWrEvEnable 4 0x2#32) t3
          = .next ((settleUart (s.uart.block.momentary (blockConfig s.cfg .uart) evRx) b s).setResult .nothing) := by
  refine ⟨_, _, _, exec_uartWrEvEnable rfl (by decide) s, exec_uartInByteReceived b _, exec_uartRdRxtx rfl _, ?_⟩
  rw [exec_uartWrEvEnable rfl (by decide)]
  simp only [settleUart_settleUart]
  rfl

/-- Settles O33: at the end RX is enabled alone; it is pending in mode (a), and nothing is pending in mode (b). -/
theorem momentaryEventIsRememberedInModeAOnly : Obligations.MomentaryEventIsRememberedInModeAOnly := by
  intro s b
  obtain ⟨t1, t2, t3, hdisable, hbyte, hread, henable⟩ := exec_momentary_rx s b
  refine ⟨t1, t2, t3, _, hdisable, hbyte, hread, henable, fun hA => ?_, fun hB => ?_⟩
  · have hpending := s.uart.block.momentary_pending_A (c := blockConfig s.cfg .uart) hA evRx
    have henabled := s.uart.block.momentary_enable (blockConfig s.cfg .uart) evRx
    rw [blockConfig_uart_evMask, show evRx &&& 0x3#32 = 0x2#32 from rfl] at henabled
    have hrx : (s.uart.block.pending ||| evRx).getLsbD 1 = true := by simp [evRx]
    refine ⟨by rw [State.setResult_uart, settleUart_block, hpending, hrx], ?_⟩
    rw [State.setResult_uart, settleUart_irqOut, hA, lineLevel, if_pos rfl, hpending, henabled, ← bne_zero_eq_decide,
      and_two_bne, hrx]
  · have hpending := s.uart.block.momentary_pending_B (c := blockConfig s.cfg .uart) hB evRx
    refine ⟨hpending, ?_⟩
    rw [State.setResult_uart, settleUart_irqOut, hB]
    simp [lineLevel, hpending]

/-! ## R93: an enable write and an event -/

/-- An event that arrives before a mode (b) enable write is latched then if it was enabled, and re-latched by the write if not; one
that arrives after it is latched by the new mask. -/
theorem EventBlock.signalEvent_setEnable (c : BlockConfig) (m b : Word) (e : EventBlock) :
    (e.setEnable c m).signalEvent c b = (e.signalEvent c b).setEnable c m := by
  cases hmode : c.mode with
  | A => simp only [EventBlock.setEnable, EventBlock.signalEvent, hmode]
  | B =>
    simp only [EventBlock.setEnable, EventBlock.signalEvent, hmode, EventBlock.mk.injEq, and_true, true_and]
    generalize m &&& c.evMask = ne
    refine BitVec.eq_of_getLsbD_eq fun k hk => ?_
    cases c.relatch <;>
      simp only [relatchCandidates_all, relatchCandidates_newly, BitVec.getLsbD_and, BitVec.getLsbD_or, BitVec.getLsbD_not, hk,
        decide_true, Bool.true_and] <;>
      grind

/-- An event that is enabled when it is signalled is latched in both modes (R86). -/
theorem EventBlock.signalEvent_pending_getLsbD (c : BlockConfig) {b : Word} {e : EventBlock} {k : Nat}
    (hb : b.getLsbD k = true) (henable : e.enable.getLsbD k = true) : (e.signalEvent c b).pending.getLsbD k = true := by
  cases hmode : c.mode with
  | A => rw [signalEvent_pending_A c hmode, BitVec.getLsbD_or, hb, Bool.or_true]
  | B => rw [signalEvent_pending_B c hmode, BitVec.getLsbD_or, BitVec.getLsbD_and, hb, henable]; exact Bool.or_true _

/-- Settles O34: in either order the UART is settled with one and the same triplet, and the byte in the receive cell. -/
theorem enableWriteAndByteCommute : Obligations.EnableWriteAndByteCommute := by
  intro s n v b hlow hhigh hv
  have hn : widthOk n = true := (widthOk_iff n).2 ⟨hlow, hhigh⟩
  refine ⟨_, _, _, exec_uartWrEvEnable hn hv s, exec_uartInByteReceived b _, exec_uartInByteReceived b s, ?_, fun hrx => ?_⟩
  · rw [exec_uartWrEvEnable hn hv, settleUart_settleUart, settleUart_settleUart]
    simp only [State.setResult_uart, State.setResult_cfg, settleUart_block, settleUart_cfg, settleUart_rx,
      EventBlock.signalEvent_setEnable]
  · refine EventBlock.signalEvent_pending_getLsbD _ (by decide) ?_
    rw [State.setResult_uart, settleUart_block, setEnable_enable, blockConfig_uart_evMask, BitVec.getLsbD_and, hrx]
    rfl

end Sys2Proof.Machine
end

section
/-! SUPPORT. The UART's operations (41_uart.md R100 to R116): what each operation does to the UART's status and to `TXLOG`, said
once for all operations, and the full answer of each UART operation. -/

namespace Sys2Proof.Machine

/-! ## R101, R102, R110, R116: the status field -/

/-- The UART's status after an operation, from its status `st` before: the two events set it, the RXTX read clears RX, the reset
leaves TX alone, and of the triplet's own operations a signal and a status clear write it. -/
def uartStatusAfter (i : Instr) (st : Word) : Word :=
  match i with
  | .uartRdRxtx _ => st &&& ~~~evRx
  | .uartWrRxtx _ _ => st ||| evTx
  | .uartInByteReceived _ => st ||| evRx
  | .uartReset | .sysReset => evTx
  | .erbSignalEvent .uart bit => st ||| eventMask bit
  | .erbClearStatus .uart m => st &&& ~~~m
  | _ => st

theorem effect_uart_status {i : Instr} {s u : State} (h : effect i s = .ok u) :
    u.uart.block.status = uartStatusAfter i s.uart.block.status := by
  cases i with
  | uartRdRxtx | uartReset | sysReset => cases h; rfl
  | uartWrRxtx | uartInByteReceived => cases h; exact signalEvent_status _ _ _
  | uartWrEvPending => cases h; exact clearPending_status _ _ _
  | uartWrEvEnable => cases h; exact setEnable_status _ _ _
  | erbClearPending d => cases d <;> cases h; exacts [clearPending_status _ _ _, rfl]
  | erbSetEnable d => cases d <;> cases h; exacts [setEnable_status _ _ _, rfl]
  | erbClearStatus d => cases d <;> cases h <;> rfl
  | erbSignalEvent d =>
    simp only [effect] at h; split at h <;> cases h
    cases d; exacts [signalEvent_status _ _ _, rfl]
  | _ => rw [(effect_keeps_uart rfl h).1]; rfl

theorem evTx_getLsbD_zero : evTx.getLsbD 0 = true := by decide

/-- No operation of an agent clears TX status: of the two that clear status bits at all, the RXTX read clears RX (R102), and
`clear_status` is internal. -/
theorem uartStatusAfter_tx {i : Instr} (hi : internal i = false) {st : Word} (h : st.getLsbD 0 = true) :
    (uartStatusAfter i st).getLsbD 0 = true := by
  cases i with
  | uartRdRxtx | uartWrRxtx | uartInByteReceived => simp [uartStatusAfter, h, evRx]
  | uartReset | sysReset => exact evTx_getLsbD_zero
  | erbSignalEvent | erbClearStatus => cases hi
  | _ => exact h

/-- Settles O19: the operation of a step was requested by a stimulus, so it is not internal and keeps TX status. -/
theorem txStatusIsConstant : Obligations.TxStatusIsConstant := by
  refine ⟨fun _ => evTx_getLsbD_zero, fun s t henv htx hstep => ?_⟩
  obtain ⟨u, ht, rfl | ⟨i, s0, hp, -, heffect⟩⟩ := step_effect hstep
  · rw [ht]; exact htx
  · obtain ⟨-, x, rest, -, hrequest, rfl⟩ := hp.external henv
    have hu : u.TxReady := by
      rw [State.TxReady, effect_uart_status heffect]
      exact uartStatusAfter_tx (requestOf_op hrequest) htx
    rw [ht]; exact hu

/-! ## R101: the bytes sent -/

/-- The byte sent is the low one of the value given, whatever the width of the access. -/
theorem sentByte_lowBytes {n : Nat} (hn : widthOk n = true) (v : Word) : sentByte (lowBytes n v) = v.setWidth 8 := by
  have hn1 : 1 ≤ n := ((widthOk_iff n).1 hn).1
  rw [sentByte_eq]
  apply BitVec.eq_of_toNat_eq
  rw [BitVec.toNat_setWidth, BitVec.toNat_setWidth, lowBytes_toNat]
  exact Nat.mod_mod_of_dvd _ (Nat.pow_dvd_pow 2 (by omega))

theorem exec_uartWrRxtx {n : Nat} (hn : widthOk n = true) (v : Word) (s : State) :
    exec (.uartWrRxtx n v) s
      = .next ((settleUart (s.uart.block.signalEvent (blockConfig s.cfg .uart) evTx) s.uart.rx
          (s.send (v.setWidth 8))).setResult .nothing) := by
  rw [← sentByte_lowBytes hn]
  exact busWrite_ok hn _

/-- Only the RXTX write sends; the other operations on the UART, its reset among them, update the UART and drive its line. -/
theorem effect_keeps_txlog {i : Instr} {s u : State} (hi : ∀ n v, i ≠ .uartWrRxtx n v) (h : effect i s = .ok u) :
    u.txlog = s.txlog := by
  cases i with
  | uartWrRxtx n v => exact absurd rfl (hi n v)
  | uartRdRxtx | uartWrEvPending | uartWrEvEnable | uartInByteReceived | uartReset | sysReset => cases h; rfl
  | erbClearPending d | erbSetEnable d | erbClearStatus d =>
    cases h; exact (driveIrq_txlog _ _).trans (State.setBlock_txlog _ _ _)
  | erbSignalEvent d =>
    simp only [effect] at h; split at h <;> cases h
    exact (driveIrq_txlog _ _).trans (State.setBlock_txlog _ _ _)
  | _ => exact (effect_keeps_uart rfl h).2

/-- Settles O27: an RXTX write that completes had a legal width. -/
theorem bytesLeaveOnlyByRxtxWrites : Obligations.BytesLeaveOnlyByRxtxWrites := by
  refine fun i s t hexec => ⟨?_, fun hi => ?_⟩
  · rintro n v rfl
    obtain ⟨hn, ht⟩ := busWrite_next hexec
    rw [ht, ← sentByte_lowBytes hn]; rfl
  · obtain ⟨u, heffect, ht⟩ := exec_next hexec
    rw [ht, State.setResult_txlog]
    exact effect_keeps_txlog hi heffect

/-! ## R103 to R106, R111 to R114: reads without a side effect -/

theorem boolWord_eq (b : Bool) : boolWord b = if b = true then 1#32 else 0#32 := rfl

theorem boolWord_not (b : Bool) : boolWord (!b) = if b = true then 0#32 else 1#32 := by
  cases b <;> rfl

/-- Settles O36: each read returns its flag, which is one bit of the triplet, or its field. -/
theorem uartReadsWithoutSideEffect : Obligations.UartReadsWithoutSideEffect := by
  intro s n hlow hhigh
  have hread (r : Word) : busRead n r s = .next { s with result := readBytes n r } :=
    busRead_ok ((widthOk_iff n).2 ⟨hlow, hhigh⟩) r s
  refine ⟨?_, ?_, ?_, ?_, hread _, hread _, hread _, ?_⟩
  · rw [← boolWord_not, ← txFull_eq]; exact hread _
  · rw [← boolWord_not, ← rxEmpty_eq]; exact hread _
  · rw [← boolWord_eq, ← txEmpty_eq]; exact hread _
  · rw [← boolWord_eq, ← rxFull_eq]; exact hread _
  · rw [← canAcceptByte_eq]; rfl

/-! ## R101, R102, R110: the data register and the received byte -/

/-- A settled UART over its end points: the triplet and the receive cell became what was given, and the line is driven. -/
theorem uartDriven_settleUart (e : EventBlock) (x : Byte) (s : State) :
    UartDriven e s ((settleUart e x s).setResult .nothing) :=
  uartDriven_driveIrq e (s.setUart { s.uart with rx := x })

/-- Settles O37: RX leaves the status, and the receive cell is settled with the byte it holds. -/
theorem rxtxReadReturnsHeldByte : Obligations.RxtxReadReturnsHeldByte := by
  intro s n hlow hhigh
  have hexec := exec_uartRdRxtx ((widthOk_iff n).2 ⟨hlow, hhigh⟩) s
  rw [zextByte_eq] at hexec
  exact ⟨_, hexec, rfl, uartDriven_settleUart (s.uart.block.clearStatus evRx) s.uart.rx s, rfl, rfl, rfl⟩

/-- Settles O38: the byte is sent, and the UART settled with TX signalled. -/
theorem rxtxWriteSendsAndSignals : Obligations.RxtxWriteSendsAndSignals := by
  intro s n v hlow hhigh _
  have hexec := exec_uartWrRxtx ((widthOk_iff n).2 ⟨hlow, hhigh⟩) v s
  rw [signalEvent_uart] at hexec
  exact ⟨_, hexec, uartDriven_settleUart _ _ (s.send (v.setWidth 8)), rfl, rfl, rfl⟩

/-- Settles O39: the UART is settled with RX signalled and the new byte, whatever the cell held. -/
theorem receivedByteIsHeldAndSignalled : Obligations.ReceivedByteIsHeldAndSignalled := by
  intro s b
  have hexec := exec_uartInByteReceived b s
  rw [signalEvent_uart] at hexec
  exact ⟨_, hexec, uartDriven_settleUart _ b s, rfl, rfl, rfl⟩

/-! ## R107, R108: the pending and enable registers -/

theorem exec_uartWrEvPending {n : Nat} {v : Word} (hn : widthOk n = true) (hv : v.toNat < 2 ^ (8 * n)) (s : State) :
    exec (.uartWrEvPending n v) s = exec (.erbClearPending .uart v) s := by
  show busWrite n (clearPending .uart (lowBytes n v) s) = _
  rw [lowBytes_of_lt hv, busWrite_ok hn]
  rfl

/-- What R84 keeps of a clear mask is inside the mask, so it need not be cut to it. -/
theorem and_not_and_self (m k : Word) : m &&& ~~~(m &&& k) = m &&& ~~~k := by
  rw [BitVec.not_and, BitVec.and_or_distrib_left, BitVec.and_not_self]
  exact BitVec.zero_or

/-- Settles O40: the write is the triplet's operation, whose clear mask in mode (a) spares the bits enabled and active. -/
theorem uartPendingWriteClears : Obligations.UartPendingWriteClears := by
  intro s n v i hi
  have hexec : exec i s = exec (.erbClearPending .uart v) s := by
    rcases hi with ⟨rfl, hlow, hhigh, hv⟩ | rfl
    · exact exec_uartWrEvPending ((widthOk_iff n).2 ⟨hlow, hhigh⟩) hv s
    · rfl
  have hblock := clearPending_uart s.cfg v s.uart.block
  rw [BitVec.and_assoc v, and_not_and_self] at hblock
  rw [← hblock]
  exact exists_uartDriven hexec

/-- The candidates of R85 that are active in status, one expression per value of `SET_ENABLE_RELATCH`. -/
theorem relatched_eq_ite (r : EnableRelatch) (p ne en st : Word) :
    (p ||| (relatchCandidates r ne en &&& st)) &&& ne
      = if r = .newlyEnabled then (p ||| (ne &&& ~~~en &&& st)) &&& ne else (p ||| (ne &&& st)) &&& ne := by
  cases r <;> rfl

/-- Settles O41: the write is the triplet's operation, which in mode (b) re-latches its candidates. -/
theorem uartEnableWriteReplaces : Obligations.UartEnableWriteReplaces := by
  intro s n v i hi
  have hexec : exec i s = exec (.erbSetEnable .uart v) s := by
    rcases hi with ⟨rfl, hlow, hhigh, hv⟩ | rfl
    · exact exec_uartWrEvEnable ((widthOk_iff n).2 ⟨hlow, hhigh⟩) hv s
    · rfl
  have hblock := setEnable_uart s.cfg v s.uart.block
  rw [relatched_eq_ite] at hblock
  rw [← hblock]
  exact exists_uartDriven hexec

/-! ## R109, R115, R144, R148: accesses without effect -/

theorem readBytes_zero (n : Nat) : readBytes n 0#32 = .word 0#32 := by
  simp [readBytes]

/-- Settles O42: each of the writes completes with the state given, and each of the reads returns the low bytes of zero. -/
theorem ignoredWritesAndOtherOffsets : Obligations.IgnoredWritesAndOtherOffsets := by
  intro s off n v i hlow hhigh
  have hn : widthOk n = true := (widthOk_iff n).2 ⟨hlow, hhigh⟩
  have hread : busRead n 0#32 s = .next { s with result := .word 0#32 } := by
    rw [busRead_ok hn, readBytes_zero]
    rfl
  refine ⟨fun hi => ?_, hread, hread⟩
  simp only [List.mem_cons, List.not_mem_nil, or_false] at hi
  rcases hi with rfl | rfl | rfl | rfl | rfl | rfl | rfl | rfl | rfl <;> exact busWrite_ok hn s

end Sys2Proof.Machine
end

section
/-! SUPPORT. The timer's operations (42_timer.md R130 to R149, R151, R153): the full answer of each register access, of a start, a
tick and an underflow, and what each operation of an agent does to the timer's status. -/

namespace Sys2Proof.Machine

/-! ## R131, R133, R136, R138 to R141, R147: the reads -/

/-- Settles O44: each read returns the low bytes of its field; UPDATE_VALUE returns those of zero. -/
theorem timerReads : Obligations.TimerReads := by
  intro s n hlow hhigh
  have hread (r : Word) : busRead n r s = .next { s with result := readBytes n r } :=
    busRead_ok ((widthOk_iff n).2 ⟨hlow, hhigh⟩) r s
  have hzero := hread 0#32
  rw [readBytes_zero] at hzero
  exact ⟨hread _, hread _, hread _, hzero, hread _, hread _, hread _, hread _⟩

/-! ## R130, R132, R135, R137: the writes outside the triplet -/

/-- An operation that completes as an update of the timer's registers outside the triplet: the line is driven with the level of the
triplet as it was. -/
theorem exists_timerDriven_updateTimer {i : Instr} {s : State} {t : Timer}
    (h : exec i s = .next ((updateTimer t s).setResult .nothing)) (hblock : t.block = s.timer.block) :
    ∃ u, exec i s = .next u ∧ TimerDriven s.timer.block s u ∧ u.timer = { t with irqOut := u.timer.irqOut } := by
  refine ⟨_, h, ?_, rfl⟩
  rw [← hblock]
  exact (timerDriven_updateTimer t s).1

theorem exec_timerWrLoad {n : Nat} {v : Word} (hn : widthOk n = true) (hv : v.toNat < 2 ^ (8 * n)) (s : State) :
    exec (.timerWrLoad n v) s = .next ((updateTimer { s.timer with load := v } s).setResult .nothing) := by
  show busWrite n (updateTimer { s.timer with load := lowBytes n v } s) = _
  rw [lowBytes_of_lt hv, busWrite_ok hn]

theorem exec_timerWrReload {n : Nat} {v : Word} (hn : widthOk n = true) (hv : v.toNat < 2 ^ (8 * n)) (s : State) :
    exec (.timerWrReload n v) s = .next ((updateTimer { s.timer with reloadLimit := v } s).setResult .nothing) := by
  show busWrite n (updateTimer { s.timer with reloadLimit := lowBytes n v } s) = _
  rw [lowBytes_of_lt hv, busWrite_ok hn]

theorem exec_timerWrEnStop {n : Nat} (hn : widthOk n = true) (v : Word) (s : State) :
    exec (.timerWrEnStop n v) s
      = .next ((updateTimer { s.timer with running := false, enabled := false } s).setResult .nothing) :=
  busWrite_ok hn _

theorem exec_timerWrUpdateValue {n : Nat} (hn : widthOk n = true) (v : Word) (s : State) :
    exec (.timerWrUpdateValue n v) s
      = .next ((updateTimer { s.timer with value := s.timer.counter } s).setResult .nothing) :=
  busWrite_ok hn _

/-- Settles O45: each of the four is an update of the timer's registers outside the triplet. -/
theorem timerPlainWrites : Obligations.TimerPlainWrites := by
  intro s n v hlow hhigh
  have hn : widthOk n = true := (widthOk_iff n).2 ⟨hlow, hhigh⟩
  exact ⟨fun hv => ⟨(exists_timerDriven_updateTimer (exec_timerWrLoad hn hv s) rfl :),
      (exists_timerDriven_updateTimer (exec_timerWrReload hn hv s) rfl :)⟩,
    (exists_timerDriven_updateTimer (exec_timerWrEnStop hn v s) rfl :),
    (exists_timerDriven_updateTimer (exec_timerWrUpdateValue hn v s) rfl :)⟩

/-! ## R134: the start -/

/-- The timer at the start of a one-shot run, but for the level of its line. -/
def Timer.startedOnce (t : Timer) : Timer :=
  { t with enabled := true, oneShot := true, counter := t.load, running := true }

/-- The timer at the start of a repeating run, but for the level of its line. -/
def Timer.startedRepeating (t : Timer) : Timer :=
  { t with enabled := true, oneShot := false, counter := t.reloadLimit, running := true }

theorem exec_timerWrEnStart {n : Nat} (hn : widthOk n = true) (v : Word) (s : State) :
    exec (.timerWrEnStart n v) s = completeOr (startTimer s) :=
  if_pos hn

/-- A staged LOAD value starts a one-shot run. -/
theorem exec_timerWrEnStart_load {n : Nat} (hn : widthOk n = true) (v : Word) {s : State} (hload : s.timer.load ≠ 0#32) :
    exec (.timerWrEnStart n v) s = .next ((updateTimer s.timer.startedOnce s).setResult .nothing) := by
  rw [exec_timerWrEnStart hn]
  rcases startTimer_cases s with ⟨hzero, -, -⟩ | ⟨-, hstart⟩ | ⟨hzero, -, -⟩
  · exact absurd hzero hload
  · rw [hstart]; rfl
  · exact absurd hzero hload

/-- With no LOAD value staged, a start repeats with the period of RELOAD. -/
theorem exec_timerWrEnStart_reload {n : Nat} (hn : widthOk n = true) (v : Word) {s : State} (hload : s.timer.load = 0#32)
    (hreload : s.timer.reloadLimit ≠ 0#32) :
    exec (.timerWrEnStart n v) s = .next ((updateTimer s.timer.startedRepeating s).setResult .nothing) := by
  rw [exec_timerWrEnStart hn]
  rcases startTimer_cases s with ⟨-, hzero, -⟩ | ⟨hne, -⟩ | ⟨-, -, hstart⟩
  · exact absurd hzero hreload
  · exact absurd hload hne
  · rw [hstart]; rfl

/-- Settles O46: the two starts are updates of the timer's registers, and count 0 is one of the refusals. -/
theorem timerStartChoosesTheMode : Obligations.TimerStartChoosesTheMode := by
  intro s n v hlow hhigh
  have hn : widthOk n = true := (widthOk_iff n).2 ⟨hlow, hhigh⟩
  exact ⟨fun hload => (exists_timerDriven_updateTimer (exec_timerWrEnStart_load hn v hload) rfl :),
    fun hload hreload => (exists_timerDriven_updateTimer (exec_timerWrEnStart_reload hn v hload hreload) rfl :),
    fun hload hreload => (exec_refused_iff (i := .timerWrEnStart n v) hn).2 (.start n v hload hreload)⟩

/-! ## R142, R143: the pending and enable registers -/

theorem exec_timerWrEvPending {n : Nat} {v : Word} (hn : widthOk n = true) (hv : v.toNat < 2 ^ (8 * n)) (s : State) :
    exec (.timerWrEvPending n v) s = exec (.erbClearPending .timer v) s := by
  show busWrite n (clearPending .timer (lowBytes n v) s) = _
  rw [lowBytes_of_lt hv, busWrite_ok hn]
  rfl

theorem exec_timerWrEvEnable {n : Nat} {v : Word} (hn : widthOk n = true) (hv : v.toNat < 2 ^ (8 * n)) (s : State) :
    exec (.timerWrEvEnable n v) s = exec (.erbSetEnable .timer v) s := by
  show busWrite n (setEnable .timer (lowBytes n v) s) = _
  rw [lowBytes_of_lt hv, busWrite_ok hn]
  rfl

/-- A word that has at most bit 0 is cleared by a mask with bit 0. -/
theorem and_not_eq_zero_of_inside_one {w v : Word} (hw : w &&& ~~~0x1#32 = 0#32) (hv : v.getLsbD 0 = true) :
    w &&& ~~~v = 0#32 := by
  refine BitVec.eq_of_getLsbD_eq fun k hk => ?_
  have hbit := congrArg (·.getLsbD k) hw
  simp only [BitVec.getLsbD_and, BitVec.getLsbD_not, BitVec.getLsbD_one, BitVec.getLsbD_zero, hk, decide_true,
    Bool.true_and] at hbit ⊢
  by_cases hk0 : k = 0
  · subst hk0; simp [hv]
  · simpa [Ne.symm hk0, hk0] using congrArg (· && !v.getLsbD k) hbit

/-- The level of a triplet without a pending bit is low, in either mode (40_event_register_block.md R89). -/
theorem lineLevel_eq_false {m : Mode} {e : EventBlock} (h : e.pending = 0#32) : lineLevel m e = false := by
  simp [lineLevel, h]

/-- Settles O47: both writes are the triplet's operations; a mask with bit 0 leaves no bit of `EV_MASK` pending. -/
theorem timerEventWrites : Obligations.TimerEventWrites := by
  refine fun s n v i => ⟨fun hi => ?_, fun hi => ?_⟩
  · have hexec : exec i s = exec (.erbClearPending .timer v) s := by
      rcases hi with ⟨rfl, hlow, hhigh, hv⟩ | rfl
      · exact exec_timerWrEvPending ((widthOk_iff n).2 ⟨hlow, hhigh⟩) hv s
      · rfl
    obtain ⟨t, hnext, hdriven, hframe⟩ := exists_timerDriven hexec
    refine ⟨t, hnext, hdriven, hframe, fun hinside hv => ?_⟩
    obtain ⟨hblock, hirq, -⟩ := hdriven
    obtain ⟨-, -, hpending, -⟩ := hinside
    have hcleared : s.timer.block.pending &&& ~~~v = 0#32 := and_not_eq_zero_of_inside_one hpending hv
    exact ⟨by rw [hblock]; exact hcleared, hirq.trans (lineLevel_eq_false hcleared)⟩
  · have hexec : exec i s = exec (.erbSetEnable .timer v) s := by
      rcases hi with ⟨rfl, hlow, hhigh, hv⟩ | rfl
      · exact exec_timerWrEvEnable ((widthOk_iff n).2 ⟨hlow, hhigh⟩) hv s
      · rfl
    exact exists_timerDriven hexec

/-! ## R146: the underflow -/

/-- The triplet with ZERO latched, as the timer's instance signals it (42_timer.md R146). -/
def EventBlock.withZero (e : EventBlock) : EventBlock :=
  { e with status := e.status ||| 0x1#32, pending := e.pending ||| 0x1#32 }

/-- Latching ZERO again changes nothing. -/
theorem EventBlock.withZero_withZero (e : EventBlock) : e.withZero.withZero = e.withZero := by
  simp [EventBlock.withZero, BitVec.or_assoc]

/-- The timer after the underflow that `t` performs, but for the level of its line. -/
def Timer.underflowed (t : Timer) : Timer :=
  { t with
    block := t.block.withZero
    running := if t.oneShot = true then false else t.running
    counter := if t.oneShot = true then t.counter else t.reloadLimit }

@[simp] theorem Timer.underflowed_block (t : Timer) : t.underflowed.block = t.block.withZero := rfl

/-- An operation whose effect is an underflow that is not refused. -/
theorem exists_timerDriven_underflow {s : State} (h : s.timer.oneShot = true ∨ s.timer.reloadLimit ≠ 0#32) :
    ∃ u, completeOr (underflow s) = .next u ∧ TimerDriven s.timer.block.withZero s u
      ∧ u.timer = { s.timer.underflowed with irqOut := u.timer.irqOut } := by
  have hdriven := timerDriven_driveIrq s.timer.block.withZero s
  rcases underflow_cases s with ⟨honeShot, hu⟩ | ⟨hrepeats, hzero, -⟩ | ⟨hrepeats, hreload, hu⟩
  · rw [hu]
    exact ⟨_, rfl, hdriven, by simp [Timer.underflowed, honeShot, signalEvent, EventBlock.withZero, evZero]⟩
  · simp [hrepeats, hzero] at h
  · rw [hu]
    exact ⟨_, rfl, hdriven, by simp [Timer.underflowed, hrepeats, signalEvent, EventBlock.withZero, evZero]⟩

/-- Settles O49: the underflow completes as `Timer.underflowed`, and a reload with period 0 is one of the refusals. -/
theorem underflowSignalsZero : Obligations.UnderflowSignalsZero := by
  refine fun s => ⟨fun h => ?_, fun honeShot hreload => (exec_refused_iff rfl).2 (.underflow honeShot hreload)⟩
  obtain ⟨t, hexec, hdriven, htimer⟩ := exists_timerDriven_underflow h
  have hblock : t.timer.block = s.timer.block.withZero := hdriven.1
  refine ⟨t, hexec, hdriven, ?_⟩
  rw [hblock]
  exact htimer

/-! ## R145: the tick -/

theorem exec_tick_stopped {s : State} (h : s.timer.running = false) : exec .timerInTick s = .next (s.setResult .nothing) := by
  show completeOr (tick s) = _
  rw [tick, h]
  rfl

/-- A tick that does not reach 0 counts down by one. -/
theorem exec_tick_counts {s : State} (hrunning : s.timer.running = true) (hcounter : s.timer.counter ≠ 1#32) :
    exec .timerInTick s
      = .next ((updateTimer { s.timer with counter := s.timer.counter - 1#32 } s).setResult .nothing) := by
  show completeOr (tick s) = _
  rcases tick_cases s with ⟨hstopped, -⟩ | ⟨-, -, htick⟩ | ⟨-, hone, -⟩
  · rw [hrunning] at hstopped; cases hstopped
  · rw [htick]; rfl
  · exact absurd hone hcounter

/-- The tick from 1 is the underflow of the timer with counter 0. -/
theorem exec_tick_expires {s : State} (hrunning : s.timer.running = true) (hcounter : s.timer.counter = 1#32) :
    exec .timerInTick s = completeOr (underflow (s.setTimer { s.timer with counter := 0#32 })) := by
  show completeOr (tick s) = _
  rcases tick_cases s with ⟨hstopped, -⟩ | ⟨-, hne, -⟩ | ⟨-, -, htick⟩
  · rw [hrunning] at hstopped; cases hstopped
  · exact absurd hcounter hne
  · rw [htick]

/-- The tick from 1 of a run that its underflow ends or reloads. -/
theorem exists_timerDriven_tick {s : State} (hrunning : s.timer.running = true) (hcounter : s.timer.counter = 1#32)
    (h : s.timer.oneShot = true ∨ s.timer.reloadLimit ≠ 0#32) :
    ∃ u, exec .timerInTick s = .next u ∧ TimerDriven s.timer.block.withZero s u
      ∧ u.timer = { Timer.underflowed { s.timer with counter := 0#32 } with irqOut := u.timer.irqOut } := by
  rw [exec_tick_expires hrunning hcounter]
  exact exists_timerDriven_underflow (s := s.setTimer { s.timer with counter := 0#32 }) h

theorem toNat_sub_one {w : Word} (h : 1 ≤ w.toNat) : (w - 1#32).toNat = w.toNat - 1 := by
  bv_omega

/-- Settles O48, by the four answers of a tick. -/
theorem tickCountsDownAndUnderflows : Obligations.TickCountsDownAndUnderflows := by
  refine fun s => ⟨exec_tick_stopped, fun hrunning hgt => ?_, fun hrunning hone h => ?_,
    fun hrunning hone honeShot hreload => (exec_refused_iff rfl).2 (.tick hrunning hone honeShot hreload)⟩
  · have hne : s.timer.counter ≠ 1#32 := by bv_omega
    rw [← toNat_sub_one hgt.le, BitVec.ofNat_toNat, BitVec.setWidth_eq]
    exact (exists_timerDriven_updateTimer (exec_tick_counts hrunning hne) rfl :)
  · obtain ⟨t, hexec, hdriven, htimer⟩ := exists_timerDriven_tick hrunning hone h
    refine ⟨t, hexec, hdriven, ?_⟩
    rw [htimer, Timer.underflowed]
    cases honeShot : s.timer.oneShot <;> simp [honeShot, hrunning]

/-! ## R151: a running counter is not 0 -/

/-- Settles O18: the engine stands still at construction, and every operation keeps the invariant (`effect_runningCounts`). -/
theorem runningTimerHasNonzeroCounter : Obligations.RunningTimerHasNonzeroCounter :=
  ⟨State.initial_runningCounts, fun _ _ => step_runningCounts⟩

/-! ## R153: the status field -/

theorem underflow_timer_status {s u : State} (h : underflow s = .ok u) :
    u.timer.block.status = s.timer.block.status ||| 0x1#32 := by
  rcases underflow_cases s with ⟨-, h'⟩ | ⟨-, -, h'⟩ | ⟨-, -, h'⟩ <;> rw [h'] at h <;> cases h <;> rfl

/-- Of the ticks, that of a running counter from 1 sets ZERO. -/
theorem tick_timer_status {s u : State} (h : tick s = .ok u) :
    u.timer.block.status
      = if s.timer.running = true ∧ s.timer.counter = 1#32 then s.timer.block.status ||| 0x1#32 else s.timer.block.status := by
  rcases tick_cases s with ⟨hstopped, h'⟩ | ⟨-, hne, h'⟩ | ⟨hrunning, hone, h'⟩ <;> rw [h'] at h
  · cases h; simp [hstopped]
  · cases h; simp [hne]
  · rw [if_pos ⟨hrunning, hone⟩]
    exact underflow_timer_status (s := s.setTimer { s.timer with counter := 0#32 }) h

theorem timerReset_status {i : Instr} {s u : State} (hi : i = .timerReset ∨ i = .sysReset) (h : effect i s = .ok u) :
    u.timer.block.status = 0#32 := by
  rcases hi with rfl | rfl <;> cases h <;> rfl

/-- Of the operations of an agent that may change the timer, all but the tick and the resets leave its status. -/
theorem effect_keeps_timer_status {i : Instr} {w : Wiring} {s u : State} (hi : external w i = true)
    (hreset : ¬(i = .timerReset ∨ i = .sysReset)) (htick : i ≠ .timerInTick) (h : effect i s = .ok u) :
    u.timer.block.status = s.timer.block.status := by
  cases i with
  | timerReset => exact absurd (.inl rfl) hreset
  | sysReset => exact absurd (.inr rfl) hreset
  | timerInTick => exact absurd rfl htick
  | timerInUnderflow | erbClearPending | erbSetEnable | erbSignalEvent | erbClearStatus => cases hi
  | timerWrEnStart => rw [(startTimer_frame h).2.1]
  | timerWrLoad | timerWrReload | timerWrEnStop | timerWrUpdateValue => cases h; rfl
  | timerWrEvPending => cases h; exact clearPending_status _ _ _
  | timerWrEvEnable => cases h; exact setEnable_status _ _ _
  | _ => rw [effect_keeps_timer rfl h]

/-- Settles O20: the resets, the tick, and every other operation of an agent. -/
theorem zeroStatusIsSticky : Obligations.ZeroStatusIsSticky := by
  intro i s t hi hexec
  obtain ⟨u, heffect, ht⟩ := exec_next hexec
  rw [ht, State.setResult_timer]
  by_cases hreset : i = .timerReset ∨ i = .sysReset
  · rw [if_pos hreset]
    exact timerReset_status hreset heffect
  · rw [if_neg hreset]
    by_cases htick : i = .timerInTick
    · subst htick
      simpa using tick_timer_status heffect
    · rw [if_neg (by simp [htick])]
      exact effect_keeps_timer_status hi hreset htick heffect

end Sys2Proof.Machine
end

section
/-! SUPPORT. The runs of the countdown engine (42_timer.md R152): ticks in a row, and the timer after each of them in a one-shot and
in a repeating run. -/

namespace Sys2Proof.Machine

/-! ## Ticks in a row -/

/-- One tick more comes last. -/
theorem ticks_succ {k : Nat} {s t : State} (h : ticks k s = .next t) : ticks (k + 1) s = exec .timerInTick t := by
  induction k generalizing s with
  | zero =>
    obtain rfl : s = t := by simpa [ticks] using h
    simp only [ticks]
    cases exec .timerInTick s <;> rfl
  | succ k ih =>
    rw [ticks] at h ⊢
    cases hexec : exec .timerInTick s with
    | next u => rw [hexec] at h; exact ih h
    | fault r => rw [hexec] at h; cases h
    | refused r => rw [hexec] at h; cases h

/-- The induction over ticks in a row: what holds of a state after no tick and is carried on by a tick that completes, holds after
any number of ticks, all of which complete. -/
theorem ticks_complete {P : Nat → State → Prop} {s : State} (hzero : P 0 s)
    (hsucc : ∀ k t, P k t → ∃ u, exec .timerInTick t = .next u ∧ P (k + 1) u) (k : Nat) :
    ∃ t, ticks k s = .next t ∧ P k t := by
  induction k with
  | zero => exact ⟨s, rfl, hzero⟩
  | succ k ih =>
    obtain ⟨t, hticks, ht⟩ := ih
    obtain ⟨u, hexec, hu⟩ := hsucc k t ht
    exact ⟨u, (ticks_succ hticks).trans hexec, hu⟩

/-! ## The one-shot run -/

/-- The timer `k` ticks into a one-shot run of count `c` that started with the triplet `e`. -/
structure OneShotRun (c : Nat) (e : EventBlock) (k : Nat) (t : Timer) : Prop where
  enabled : t.enabled = true
  oneShot : t.oneShot = true
  running : t.running = decide (k < c)
  counter : t.counter.toNat = c - k
  block : t.block = if k < c then e else e.withZero

/-- A tick carries a one-shot run on: it counts down before the c-th, underflows at the c-th, and does nothing after it. -/
theorem OneShotRun.tick {c k : Nat} {e : EventBlock} {s : State} (h : OneShotRun c e k s.timer) :
    ∃ u, exec .timerInTick s = .next u ∧ OneShotRun c e (k + 1) u.timer := by
  obtain ⟨henabled, honeShot, hrunning, hcounter, hblock⟩ := h
  rcases lt_trichotomy (k + 1) c with hcounts | hexpires | hstopped
  · have hk : k < c := by omega
    rw [decide_eq_true hk] at hrunning
    rw [if_pos hk] at hblock
    refine ⟨_, exec_tick_counts hrunning (by bv_omega), henabled, honeShot, ?_, ?_, ?_⟩
    · simpa [hcounts] using hrunning
    · exact (toNat_sub_one (by omega)).trans (by omega)
    · simpa [hcounts] using hblock
  · have hk : k < c := by omega
    rw [decide_eq_true hk] at hrunning
    rw [if_pos hk] at hblock
    obtain ⟨u, hexec, -, hu⟩ := exists_timerDriven_tick hrunning (by bv_omega) (.inl honeShot)
    refine ⟨u, hexec, ?_⟩
    rw [hu]
    refine ⟨henabled, honeShot, ?_, ?_, ?_⟩
    · simp [Timer.underflowed, honeShot, hexpires]
    · simp [Timer.underflowed, honeShot, hexpires]
    · simp [hblock, hexpires]
  · have hk : ¬k < c := by omega
    rw [decide_eq_false hk] at hrunning
    rw [if_neg hk] at hblock
    refine ⟨_, exec_tick_stopped hrunning, henabled, honeShot, ?_, ?_, ?_⟩
    · rw [decide_eq_false (by omega)]; exact hrunning
    · exact hcounter.trans (by omega)
    · rw [if_neg (by omega)]; exact hblock

theorem oneShotRun_start {s : State} (h : s.timer.load ≠ 0#32) :
    OneShotRun s.timer.load.toNat s.timer.block 0 ((updateTimer s.timer.startedOnce s).setResult .nothing).timer := by
  have hpos : 0 < s.timer.load.toNat := by bv_omega
  exact ⟨rfl, rfl, (decide_eq_true hpos).symm, rfl, (if_pos hpos).symm⟩

/-- Settles O50: the start begins a one-shot run of count LOAD, and every tick carries it on. -/
theorem oneShotRunFiresOnceAndStops : Obligations.OneShotRunFiresOnceAndStops := by
  intro s n v hlow hhigh hload
  refine ⟨_, exec_timerWrEnStart_load ((widthOk_iff n).2 ⟨hlow, hhigh⟩) v hload, fun k => ?_⟩
  obtain ⟨t, hticks, henabled, -, hrunning, hcounter, hblock⟩ :=
    ticks_complete (P := fun k t => OneShotRun s.timer.load.toNat s.timer.block k t.timer) (oneShotRun_start hload)
      (fun _ _ h => h.tick) k
  exact ⟨t, hticks, henabled, hrunning, hcounter, fun hk => hblock.trans (if_pos hk),
    fun hk => hblock.trans (if_neg (by omega))⟩

/-! ## The repeating run -/

/-- The timer `k` ticks into a repeating run of period `p` that started with the triplet `e`. -/
structure RepeatingRun (p : Word) (e : EventBlock) (k : Nat) (t : Timer) : Prop where
  running : t.running = true
  oneShot : t.oneShot = false
  reloadLimit : t.reloadLimit = p
  counter : t.counter.toNat = p.toNat - k % p.toNat
  block : t.block = if k < p.toNat then e else e.withZero

/-- A tick carries a repeating run on: it counts down, and at the end of each period underflows and reloads. -/
theorem RepeatingRun.tick {p : Word} (hp : p ≠ 0#32) {k : Nat} {e : EventBlock} {s : State}
    (h : RepeatingRun p e k s.timer) : ∃ u, exec .timerInTick s = .next u ∧ RepeatingRun p e (k + 1) u.timer := by
  obtain ⟨hrunning, honeShot, hreload, hcounter, hblock⟩ := h
  have hpos : 0 < p.toNat := by bv_omega
  have hlt : k % p.toNat < p.toNat := Nat.mod_lt k hpos
  have hle : k % p.toNat ≤ k := Nat.mod_le k p.toNat
  by_cases hlast : k % p.toNat + 1 = p.toNat
  · obtain ⟨u, hexec, -, hu⟩ := exists_timerDriven_tick hrunning (by bv_omega) (.inr (by rw [hreload]; exact hp))
    refine ⟨u, hexec, ?_⟩
    have hnext : (k + 1) % p.toNat = 0 := by rw [← Nat.mod_add_mod, hlast, Nat.mod_self]
    rw [hu]
    refine ⟨?_, honeShot, hreload, ?_, ?_⟩
    · simp [Timer.underflowed, honeShot, hrunning]
    · simp [Timer.underflowed, honeShot, hreload, hnext]
    · have hlatched : s.timer.block.withZero = e.withZero := by
        rw [hblock]
        split
        · rfl
        · exact e.withZero_withZero
      rw [if_neg (by omega)]
      exact hlatched
  · have hnext : (k + 1) % p.toNat = k % p.toNat + 1 :=
      (Nat.mod_add_mod k p.toNat 1).symm.trans (Nat.mod_eq_of_lt (by omega))
    have hsame : k + 1 < p.toNat ↔ k < p.toNat := by
      refine ⟨by omega, fun hk => ?_⟩
      rw [Nat.mod_eq_of_lt hk] at hlast
      omega
    refine ⟨_, exec_tick_counts hrunning (by bv_omega), hrunning, honeShot, hreload, ?_, ?_⟩
    · exact (toNat_sub_one (by omega)).trans (by omega)
    · exact hblock.trans (if_congr hsame.symm rfl rfl)

theorem repeatingRun_start {s : State} (h : s.timer.reloadLimit ≠ 0#32) :
    RepeatingRun s.timer.reloadLimit s.timer.block 0
      ((updateTimer s.timer.startedRepeating s).setResult .nothing).timer := by
  have hpos : 0 < s.timer.reloadLimit.toNat := by bv_omega
  exact ⟨rfl, rfl, rfl, by rw [Nat.zero_mod]; rfl, (if_pos hpos).symm⟩

/-- Settles O51: the start begins a repeating run of period RELOAD, and every tick carries it on. -/
theorem repeatingRunHasPeriodReload : Obligations.RepeatingRunHasPeriodReload := by
  intro s n v hlow hhigh hload hreload
  refine ⟨_, exec_timerWrEnStart_reload ((widthOk_iff n).2 ⟨hlow, hhigh⟩) v hload hreload, fun k => ?_⟩
  obtain ⟨t, hticks, hrunning, honeShot, -, hcounter, hblock⟩ :=
    ticks_complete (P := fun k t => RepeatingRun s.timer.reloadLimit s.timer.block k t.timer)
      (repeatingRun_start hreload) (fun _ _ h => h.tick hreload) k
  exact ⟨t, hticks, hrunning, honeShot, hcounter, fun hk => hblock.trans (if_pos hk),
    fun hk => hblock.trans (if_neg (by omega))⟩

end Sys2Proof.Machine
end

section
/-! SUPPORT. The interrupt controller's operations (43_interrupt_controller.md R170 to R175): the full answer of each, and what each
operation of the block does to the two enable masks, said once for all operations. -/

namespace Sys2Proof.Machine

/-! ## R171: the enable masks -/

/-- The enable masks of the two roles, the machine's first. -/
def Intc.masks (c : Intc) : Word × Word := (c.mEnableBits, c.sEnableBits)

/-- The enable masks after an operation, from the masks `m` before. -/
def masksAfter (i : Instr) (m : Word × Word) : Word × Word :=
  match i with
  | .intcWrMIrqEnable v => (v, m.2)
  | .intcWrSIrqEnable v => (m.1, v)
  | .intcReset | .sysReset => (0#32, 0#32)
  | _ => m

/-- A drive of a peripheral's line, after anything that left the controller alone, leaves the masks. -/
theorem driveIrq_masks {d : Dev} {s s' : State} (hintc : s'.intc = s.intc) : (driveIrq d s').intc.masks = s.intc.masks := by
  rw [driveIrq_intc, hintc]; rfl

theorem underflow_masks {s u : State} (h : underflow s = .ok u) : u.intc.masks = s.intc.masks := by
  rcases underflow_cases s with ⟨-, h'⟩ | ⟨-, -, h'⟩ | ⟨-, -, h'⟩ <;> rw [h'] at h <;> cases h <;> rfl

theorem tick_masks {s u : State} (h : tick s = .ok u) : u.intc.masks = s.intc.masks := by
  rcases tick_cases s with ⟨-, h'⟩ | ⟨-, -, h'⟩ | ⟨-, -, h'⟩ <;> rw [h'] at h
  · cases h; rfl
  · cases h; rfl
  · exact underflow_masks (s := s.setTimer { s.timer with counter := 0#32 }) h

/-- Everything an operation does to the masks: a peripheral and a request reach the controller by its lines alone. -/
theorem effect_masks {i : Instr} {s u : State} (h : effect i s = .ok u) : u.intc.masks = masksAfter i s.intc.masks := by
  cases i with
  | intcWrMIrqEnable | intcWrSIrqEnable | intcReset | sysReset => cases h; rfl
  | uartRdRxtx | uartWrRxtx | uartWrEvPending | uartWrEvEnable | uartInByteReceived | uartReset
  | timerWrLoad | timerWrReload | timerWrEnStop | timerWrUpdateValue | timerWrEvPending | timerWrEvEnable | timerReset =>
    cases h; exact driveIrq_masks rfl
  | timerWrEnStart =>
    obtain ⟨-, -, -, hm, hs, -⟩ := startTimer_frame h
    exact Prod.ext hm hs
  | timerInTick => exact tick_masks h
  | timerInUnderflow => exact underflow_masks h
  | intcInRequest => simp only [effect] at h; split at h <;> cases h; rfl
  | erbClearPending | erbSetEnable | erbClearStatus => cases h; exact driveIrq_masks (State.setBlock_intc ..)
  | erbSignalEvent =>
    simp only [effect] at h; split at h <;> cases h
    exact driveIrq_masks (State.setBlock_intc ..)
  | _ => cases h; rfl

/-- Beside the two resets, no operation but its own role's write changes a mask. -/
theorem masksAfter_keeps {i : Instr} (hreset : i ≠ .intcReset) (hsys : i ≠ .sysReset) (m : Word × Word) :
    ((∀ v, i ≠ .intcWrMIrqEnable v) → (masksAfter i m).1 = m.1)
      ∧ ((∀ v, i ≠ .intcWrSIrqEnable v) → (masksAfter i m).2 = m.2) := by
  cases i with
  | intcWrMIrqEnable v => exact ⟨fun hwrite => absurd rfl (hwrite v), fun _ => rfl⟩
  | intcWrSIrqEnable v => exact ⟨fun _ => rfl, fun hwrite => absurd rfl (hwrite v)⟩
  | intcReset => exact absurd rfl hreset
  | sysReset => exact absurd rfl hsys
  | _ => exact ⟨fun _ => rfl, fun _ => rfl⟩

/-- Settles O26: the masks after the operation are `masksAfter`, which the two writes and the two resets alone change. -/
theorem enableMasksChangeOnlyByTheirOwnWrites : Obligations.EnableMasksChangeOnlyByTheirOwnWrites := by
  intro i s t hexec
  obtain ⟨u, heffect, ht⟩ := exec_next hexec
  obtain ⟨hm, hs⟩ := Prod.mk.inj (effect_masks heffect)
  rw [ht, State.setResult_intc, hm, hs]
  refine ⟨?_, ?_, ?_, fun hwrite hreset hsys => (masksAfter_keeps hreset hsys _).1 hwrite,
    fun hwrite hreset hsys => (masksAfter_keeps hreset hsys _).2 hwrite⟩
  · rintro v rfl; rfl
  · rintro v rfl; rfl
  · rintro (rfl | rfl) <;> exact ⟨rfl, rfl⟩

/-- `recompute` with its tests as decisions (43_interrupt_controller.md R175). -/
theorem recompute_eq (c : Intc) :
    c.recompute = { c with
      mOut := decide (c.pendingBits &&& c.mEnableBits ≠ 0#32), sOut := decide (c.pendingBits &&& c.sEnableBits ≠ 0#32) } := by
  rw [← bne_zero_eq_decide, ← bne_zero_eq_decide]; rfl

theorem exec_intcWrMIrqEnable (v : Word) (s : State) :
    exec (.intcWrMIrqEnable v) s
      = .next ((s.setIntc (Intc.recompute { s.intc with mEnableBits := v })).setResult .nothing) := rfl

theorem exec_intcWrSIrqEnable (v : Word) (s : State) :
    exec (.intcWrSIrqEnable v) s
      = .next ((s.setIntc (Intc.recompute { s.intc with sEnableBits := v })).setResult .nothing) := rfl

/-- Settles O55: the mask is replaced, and `recompute` writes both outputs from the masks it then finds. -/
theorem enablePseudoWriteReplacesMask : Obligations.EnablePseudoWriteReplacesMask := by
  intro s v
  rw [exec_intcWrMIrqEnable, exec_intcWrSIrqEnable, recompute_eq, recompute_eq]
  exact ⟨rfl, rfl⟩

/-! ## R172 to R174: the reads, and the writes of the pending pseudo-registers -/

/-- Settles O54: each read completes with its field returned, and each write of a pending pseudo-register with the state given. -/
theorem pseudoReadsAndIgnoredWrites : Obligations.PseudoReadsAndIgnoredWrites :=
  fun _ _ => ⟨rfl, rfl, rfl, rfl, rfl, rfl⟩

/-! ## R170: the request -/

theorem exec_intcInRequest {line : Nat} {s : State} (hline : line < s.cfg.wiring.numLines) (level : Bool) :
    exec (.intcInRequest line level) s = .next ((s.setIntc (s.intc.setLine line level)).setResult .nothing) :=
  if_pos ((hasLine_iff _ _).2 hline)

/-- Settles O56: the request drives its line in the controller; on a line that does not exist it is one of the listed refusals. -/
theorem requestDeliversALevel : Obligations.RequestDeliversALevel :=
  fun s line level => ⟨fun hline => ⟨_, exec_intcInRequest hline level, setLine_driven line level s.intc, rfl⟩,
    fun hline => (exec_refused_iff rfl).2 (.request line level hline)⟩

end Sys2Proof.Machine
end

section
/-! SUPPORT. The path from a peripheral's level to the controller's pending bit (60_exceptions.md R192, R193;
43_interrupt_controller.md R177): every mutating operation of a device delivers its level, every other operation of an agent but
the reset of the controller leaves level and bit alone. -/

namespace Sys2Proof.Machine

/-! ## The level of a device, its line and its pending bit -/

/-- The level of a device by the law of 40_event_register_block.md R89. -/
def State.level (s : State) (d : Dev) : Bool := lineLevel (blockConfig s.cfg d).mode (s.block d)

/-- The level last driven on a device's interrupt output (10_state.md R16). -/
def State.irqOut (s : State) : Dev → Bool
  | .uart => s.uart.irqOut
  | .timer => s.timer.irqOut

/-- The controller's pending bit of the line a device is wired to. -/
def State.pendingBit (s : State) (d : Dev) : Bool := s.intc.pendingBits.getLsbD (irqLine s.cfg.wiring d)

/-- The device's line and its pending bit carry its level (60_exceptions.md R192). -/
structure State.Delivered (s : State) (d : Dev) : Prop where
  line : s.irqOut d = s.level d
  bit : s.pendingBit d = s.level d

theorem State.pathClosed_iff (s : State) : s.PathClosed ↔ ∀ d, s.pendingBit d = s.level d :=
  ⟨fun h d => by cases d; exacts [h.1, h.2], fun h => ⟨h .uart, h .timer⟩⟩

theorem State.linesFollowLevels_iff (s : State) : s.LinesFollowLevels ↔ ∀ d, s.irqOut d = s.level d :=
  ⟨fun h d => by cases d; exacts [h.1, h.2], fun h => ⟨h .uart, h .timer⟩⟩

/-- Both peripherals of a legal configuration are on lines the controller has bits for (00_scope.md R6). -/
theorem irqLine_lt_32 {c : Config} (h : c.legal = true) (d : Dev) : irqLine c.wiring d < 32 := by
  obtain ⟨hw, -, -⟩ := (Config.legal_iff c).1 h
  have hline := irqLine_lt_numLines hw d
  simp only [Wiring.legal, Bool.and_eq_true, decide_eq_true_eq] at hw
  omega

/-- The two peripherals of a legal configuration are on different lines (00_scope.md R6). -/
theorem irqLine_ne {c : Config} (h : c.legal = true) {d d' : Dev} (hd : d ≠ d') : irqLine c.wiring d ≠ irqLine c.wiring d' := by
  obtain ⟨hw, -, -⟩ := (Config.legal_iff c).1 h
  simp only [Wiring.legal, Bool.and_eq_true, decide_eq_true_eq] at hw
  obtain ⟨⟨⟨⟨⟨-, hne⟩, -⟩, -⟩, -⟩, -⟩ := hw
  match d, d', hd with
  | .uart, .timer, _ => exact hne
  | .timer, .uart, _ => exact hne.symm

/-! ## R192: a mutating operation delivers the level -/

/-- `drive_irq(DEV)`, after anything that left the configuration alone, delivers the level, whatever stood on the line or in the
controller before. -/
theorem driveIrq_delivered {s s' : State} (h : s.cfg.legal = true) (d : Dev) (hcfg : s'.cfg = s.cfg) :
    (driveIrq d s').Delivered d := by
  have hlevel : (driveIrq d s').level d = (s'.block d).irqLevel (blockConfig s'.cfg d) := by
    rw [irqLevel_eq_lineLevel]; cases d <;> rfl
  have hk : irqLine s'.cfg.wiring d < 32 := by rw [hcfg]; exact irqLine_lt_32 h d
  refine ⟨by rw [hlevel]; cases d <;> rfl, ?_⟩
  rw [hlevel, State.pendingBit, driveIrq_cfg, driveIrq_intc, setLine_getLsbD _ _ _ _ hk, if_pos rfl]

theorem startTimer_delivered {s u : State} (hlegal : s.cfg.legal = true) (h : startTimer s = .ok u) : u.Delivered .timer := by
  rcases startTimer_cases s with ⟨_, _, h'⟩ | ⟨_, h'⟩ | ⟨_, _, h'⟩ <;> rw [h'] at h <;> cases h
  · exact driveIrq_delivered hlegal .timer rfl
  · exact driveIrq_delivered hlegal .timer rfl

/-- The ZERO event of an underflow drives the line; what follows writes neither the triplet nor the line (42_timer.md R146). -/
theorem underflow_delivered {s u : State} (hlegal : s.cfg.legal = true) (h : underflow s = .ok u) : u.Delivered .timer := by
  have hzero : (signalEvent .timer evZero s).Delivered .timer := driveIrq_delivered hlegal .timer rfl
  rcases underflow_cases s with ⟨_, h'⟩ | ⟨_, _, h'⟩ | ⟨_, _, h'⟩ <;> rw [h'] at h <;> cases h
  · exact ⟨hzero.line, hzero.bit⟩
  · exact ⟨hzero.line, hzero.bit⟩

theorem tick_delivered {s u : State} (hlegal : s.cfg.legal = true) (hrunning : s.timer.running = true) (h : tick s = .ok u) :
    u.Delivered .timer := by
  rcases tick_cases s with ⟨hstopped, _⟩ | ⟨_, _, h'⟩ | ⟨_, _, h'⟩
  · rw [hstopped] at hrunning; cases hrunning
  · rw [h'] at h; cases h; exact driveIrq_delivered hlegal .timer rfl
  · rw [h'] at h; exact underflow_delivered (s := s.setTimer { s.timer with counter := 0#32 }) hlegal h

/-- At construction both levels are low (`State.initial_linesFollowLevels`), and so are both lines. -/
theorem State.initial_level {c : Config} (h : c.legal = true) (d : Dev) : (State.initial c).level d = false := by
  rw [← (State.linesFollowLevels_iff _).1 (State.initial_linesFollowLevels h) d]
  cases d <;> rfl

/-- After a system reset the levels are those of construction, both low, so that the cleared pending bits carry them
(70_reset_and_hazards.md R224). -/
theorem sysReset_delivered {s : State} (hlegal : s.cfg.legal = true) (d : Dev) :
    (resetIntc (resetTimer (resetUart s))).Delivered d := by
  have huart : (resetUart s).Delivered .uart := driveIrq_delivered hlegal .uart rfl
  have htimer : (resetTimer (resetUart s)).Delivered .timer := driveIrq_delivered hlegal .timer rfl
  have hlevel : (resetIntc (resetTimer (resetUart s))).level d = false := by
    rw [← State.initial_level hlegal d]; cases d <;> rfl
  refine ⟨by cases d; exacts [huart.line, htimer.line], ?_⟩
  rw [hlevel]
  exact BitVec.getLsbD_zero

/-- Every operation that may change the UART ends with the drive of its line. -/
theorem effect_delivered_uart {i : Instr} {s u : State} (hlegal : s.cfg.legal = true) (hi : touchesUart i = true)
    (h : effect i s = .ok u) : u.Delivered .uart := by
  cases i with
  | uartRdRxtx | uartWrRxtx | uartWrEvPending | uartWrEvEnable | uartInByteReceived | uartReset =>
    cases h; exact driveIrq_delivered hlegal .uart rfl
  | sysReset => cases h; exact sysReset_delivered hlegal .uart
  | erbClearPending d | erbSetEnable d | erbClearStatus d =>
    obtain rfl : d = .uart := of_decide_eq_true hi
    cases h; exact driveIrq_delivered hlegal .uart rfl
  | erbSignalEvent d =>
    obtain rfl : d = .uart := of_decide_eq_true hi
    simp only [effect] at h; split at h <;> cases h
    exact driveIrq_delivered hlegal .uart rfl
  | _ => cases hi

/-- Every operation that may change the timer delivers its level; a tick does while the engine runs (42_timer.md R145). -/
theorem effect_delivered_timer {i : Instr} {s u : State} (hlegal : s.cfg.legal = true) (hi : touchesTimer i = true)
    (hrunning : i = .timerInTick → s.timer.running = true) (h : effect i s = .ok u) : u.Delivered .timer := by
  cases i with
  | timerWrLoad | timerWrReload | timerWrEnStop | timerWrUpdateValue | timerWrEvPending | timerWrEvEnable | timerReset =>
    cases h; exact driveIrq_delivered hlegal .timer rfl
  | timerWrEnStart => exact startTimer_delivered hlegal h
  | timerInTick => exact tick_delivered hlegal (hrunning rfl) h
  | timerInUnderflow => exact underflow_delivered hlegal h
  | sysReset => cases h; exact sysReset_delivered hlegal .timer
  | erbClearPending d | erbSetEnable d | erbClearStatus d =>
    obtain rfl : d = .timer := of_decide_eq_true hi
    cases h; exact driveIrq_delivered hlegal .timer rfl
  | erbSignalEvent d =>
    obtain rfl : d = .timer := of_decide_eq_true hi
    simp only [effect] at h; split at h <;> cases h
    exact driveIrq_delivered hlegal .timer rfl
  | _ => cases hi

/-! ## R193: the path stays closed -/

/-- The operations that may change a device. -/
def touches : Dev → Instr → Bool
  | .uart => touchesUart
  | .timer => touchesTimer

theorem effect_delivered {d : Dev} {i : Instr} {s u : State} (hlegal : s.cfg.legal = true) (hi : touches d i = true)
    (hrunning : i = .timerInTick → s.timer.running = true) (h : effect i s = .ok u) : u.Delivered d := by
  cases d with
  | uart => exact effect_delivered_uart hlegal hi h
  | timer => exact effect_delivered_timer hlegal hi hrunning h

/-- An operation that does not touch a device leaves its level. -/
theorem effect_keeps_level {d : Dev} {i : Instr} {s u : State} (hi : touches d i = false) (h : effect i s = .ok u) :
    u.level d = s.level d := by
  have hblock : u.block d = s.block d := by
    cases d with
    | uart => exact congrArg Uart.block (effect_keeps_uart hi h).1
    | timer => exact congrArg Timer.block (effect_keeps_timer hi h)
  rw [State.level, (effect_keeps h).1, hblock, State.level]

/-- An operation that does not touch a device leaves the pending bit of its line: the other device drives another line. Only a
request on the very line and the reset of the controller could change it. -/
theorem effect_keeps_pendingBit {d : Dev} {i : Instr} {s u : State} (hlegal : s.cfg.legal = true) (hi : touches d i = false)
    (hrequest : ∀ level, i ≠ .intcInRequest (irqLine s.cfg.wiring d) level) (hreset : i ≠ .intcReset)
    (h : effect i s = .ok u) : u.pendingBit d = s.pendingBit d := by
  rw [State.pendingBit, (effect_keeps h).1, State.pendingBit]
  have hk := irqLine_lt_32 hlegal d
  have hother {d' : Dev} (hd : d ≠ d') := irqLine_ne hlegal hd
  cases i with
  | uartRdRxtx | uartWrRxtx | uartWrEvPending | uartWrEvEnable | uartInByteReceived | uartReset =>
    have hd : d ≠ .uart := by rintro rfl; cases hi
    cases h; exact driveIrq_getLsbD_of_ne hk (hother hd) rfl rfl
  | timerWrLoad | timerWrReload | timerWrEnStop | timerWrUpdateValue | timerWrEvPending | timerWrEvEnable | timerReset =>
    have hd : d ≠ .timer := by rintro rfl; cases hi
    cases h; exact driveIrq_getLsbD_of_ne hk (hother hd) rfl rfl
  | timerWrEnStart =>
    have hd : d ≠ .timer := by rintro rfl; cases hi
    obtain ⟨-, -, hdriven, -⟩ := startTimer_frame h
    exact (hdriven _ hk).trans (if_neg (hother hd))
  | timerInTick =>
    have hd : d ≠ .timer := by rintro rfl; cases hi
    exact tick_getLsbD_of_ne hk (hother hd) h
  | timerInUnderflow =>
    have hd : d ≠ .timer := by rintro rfl; cases hi
    exact underflow_getLsbD_of_ne hk (hother hd) h
  | sysReset => cases d <;> cases hi
  | erbClearPending d' | erbSetEnable d' | erbClearStatus d' =>
    have hd : d ≠ d' := by rintro rfl; cases d <;> cases hi
    cases h; exact driveIrq_getLsbD_of_ne hk (hother hd) (State.setBlock_cfg ..) (State.setBlock_intc ..)
  | erbSignalEvent d' =>
    have hd : d ≠ d' := by rintro rfl; cases d <;> cases hi
    simp only [effect] at h; split at h <;> cases h
    exact driveIrq_getLsbD_of_ne hk (hother hd) (State.setBlock_cfg ..) (State.setBlock_intc ..)
  | intcInRequest line level =>
    have hline : irqLine s.cfg.wiring d ≠ line := fun heq => hrequest level (by rw [heq])
    simp only [effect] at h; split at h <;> cases h
    rw [State.setIntc_intc, setLine_getLsbD _ _ _ _ hk, if_neg hline]
  | intcReset => exact absurd rfl hreset
  | _ => cases h; rfl

/-- No agent requests a level on the line of a peripheral (60_exceptions.md R205). -/
theorem external_ne_request {w : Wiring} {i : Instr} (h : external w i = true) (d : Dev) (level : Bool) :
    i ≠ .intcInRequest (irqLine w d) level := by
  rintro rfl
  cases d <;> simp [external, irqLine] at h

theorem effect_tick_stopped {s : State} (h : s.timer.running = false) : effect .timerInTick s = .ok s := by
  simp [effect, tick, h]

/-- An operation of an agent, other than the reset of the controller alone, keeps the path closed: it delivers the level of a
device it touches, and leaves level and bit of one it does not. -/
theorem effect_pathClosed {i : Instr} {s u : State} (hlegal : s.cfg.legal = true) (hi : external s.cfg.wiring i = true)
    (hreset : i ≠ .intcReset) (hs : s.PathClosed) (h : effect i s = .ok u) : u.PathClosed := by
  by_cases hstopped : i = .timerInTick ∧ s.timer.running = false
  · obtain ⟨rfl, hstopped⟩ := hstopped
    rw [effect_tick_stopped hstopped] at h
    cases h; exact hs
  rw [State.pathClosed_iff] at hs ⊢
  intro d
  cases htouch : touches d i with
  | true => exact (effect_delivered hlegal htouch (by simpa using hstopped) h).bit
  | false => rw [effect_keeps_level htouch h, effect_keeps_pendingBit hlegal htouch (external_ne_request hi d) hreset h, hs]

/-- A step that the environment can cause, other than a reset of the controller alone, keeps the path closed. -/
theorem step_pathClosed {s t : State} (hlegal : s.cfg.legal = true) (henv : s.InboxExternal) (hkeeps : s.InboxKeepsPath)
    (hs : s.PathClosed) (hstep : step s = .next t) : t.PathClosed := by
  obtain ⟨u, ht, rfl | ⟨i, s0, hp, -, heffect⟩⟩ := step_effect hstep
  · rw [ht]; exact hs
  · obtain ⟨hi, x, rest, hinbox, hrequest, rfl⟩ := hp.external henv
    have hreset : i ≠ .intcReset := by
      rintro rfl
      have hx := hkeeps x (by rw [hinbox]; exact List.mem_cons_self)
      simp [Stimulus.resetsIntcAlone, hrequest] at hx
    have hu : u.PathClosed := effect_pathClosed (s := s.setInbox rest) hlegal hi hreset hs heffect
    rw [ht]; exact hu

/-- Settles O21: the first clause by the step (`step_pathClosed`), the second by the drive that ends every mutating operation. -/
theorem interruptPathStaysClosed : Obligations.InterruptPathStaysClosed := by
  refine ⟨fun s t => step_pathClosed, fun i s t hlegal hexec => ?_⟩
  obtain ⟨u, heffect, ht⟩ := exec_next hexec
  rw [ht]
  refine ⟨fun hi => ?_, fun hi hrunning => ?_⟩
  · have hu := effect_delivered_uart hlegal hi heffect
    exact ⟨hu.line, hu.bit⟩
  · have hu := effect_delivered_timer hlegal hi hrunning heffect
    exact ⟨hu.line, hu.bit⟩

end Sys2Proof.Machine
end

section
/-! SUPPORT. The reachable states (60_exceptions.md R205): the induction over runs, and the laws of a state together with those of
its waiting stimuli, which every step keeps. -/

namespace Sys2Proof.Machine

/-- The induction over runs: what every step keeps, every number of steps keeps. -/
theorem run_keeps {M : Host.Core} {P : M.State → Prop} (hstep : ∀ s t, P s → M.step s = .next t → P t) {k : Nat}
    {s t : M.State} (hs : P s) (h : M.run k s = .next t) : P t := by
  induction k generalizing s with
  | zero =>
    obtain rfl : s = t := by simpa [Host.Core.run] using h
    exact hs
  | succ k ih =>
    rw [Host.Core.run] at h
    split at h
    · exact ih (hstep _ _ hs ‹_›) h
    · cases h
    · cases h

/-- A state in which the laws hold and whose waiting stimuli keep them. -/
structure State.Lawful (s : State) : Prop where
  inv : s.Inv
  path : s.PathClosed
  tx : s.TxReady
  env : s.InboxExternal
  keeps : s.InboxKeepsPath

/-- What waits after a step, waited before it. -/
theorem step_inbox_subset {s t : State} (hcall : s.call = none) (hstep : step s = .next t) : t.inbox ⊆ s.inbox := by
  obtain ⟨-, htail, -⟩ := stepKeepsConfiguration s t hstep
  rw [htail hcall]
  exact List.tail_subset s.inbox

theorem step_lawful {s t : State} (h : s.Lawful) (hstep : step s = .next t) : t.Lawful := by
  obtain ⟨hcall, hext⟩ := h.env
  have hsub := step_inbox_subset hcall hstep
  have hcfg := step_cfg hstep
  obtain ⟨hlegal, -⟩ := h.inv
  exact {
    inv := stepKeepsInvariant s t h.inv hstep
    path := step_pathClosed hlegal h.env h.keeps h.path hstep
    tx := txStatusIsConstant.2 s t h.env h.tx hstep
    env := ⟨step_call hstep, fun x hx => by rw [hcfg]; exact hext x (hsub hx)⟩
    keeps := fun x hx => by rw [hcfg]; exact h.keeps x (hsub hx) }

/-- No bit is pending at construction, and both levels are low. -/
theorem State.initial_pathClosed {c : Config} (h : c.legal = true) : (State.initial c).PathClosed := by
  rw [State.pathClosed_iff]
  intro d
  rw [State.initial_level h]
  exact BitVec.getLsbD_zero

/-- Settles O14: construction is lawful with any lawful list of stimuli, and every step keeps it so (`step_lawful`). -/
theorem everyReachableStateIsLawful : Obligations.EveryReachableStateIsLawful := by
  intro c xs k t hlegal hxs hrun
  have hstart : State.Lawful { State.initial c with inbox := xs } := {
    inv := State.initial_inv hlegal
    path := State.initial_pathClosed hlegal
    tx := txStatusIsConstant.1 c
    env := ⟨rfl, fun x hx => (hxs x hx).1⟩
    keeps := fun x hx => (hxs x hx).2 }
  have hend : State.Lawful t := run_keeps (M := Sys2Proof.core) (P := State.Lawful) (fun _ _ => step_lawful) hstart hrun
  exact ⟨hend.inv, hend.path, hend.tx⟩

end Sys2Proof.Machine
end

section
/-! SUPPORT. The UART's receive-ready condition (60_exceptions.md R191; 41_uart.md R102, R110): the RX bit of the status after each
operation of an agent. -/

namespace Sys2Proof.Machine

theorem internal_of_external {w : Wiring} {i : Instr} (h : external w i = true) : internal i = false := by
  unfold external at h
  split at h
  · rfl
  · simpa using h

/-- Of the operations of an agent, those the rule does not list write TX status or none. -/
theorem uartStatusAfter_rx {i : Instr} (hi : internal i = false) (hbyte : ∀ b, i ≠ .uartInByteReceived b)
    (hread : ∀ n, i ≠ .uartRdRxtx n) (hreset : i ≠ .uartReset) (hsys : i ≠ .sysReset) (st : Word) :
    (uartStatusAfter i st).getLsbD 1 = st.getLsbD 1 := by
  cases i with
  | uartInByteReceived b => exact absurd rfl (hbyte b)
  | uartRdRxtx n => exact absurd rfl (hread n)
  | uartReset => exact absurd rfl hreset
  | sysReset => exact absurd rfl hsys
  | erbSignalEvent | erbClearStatus => cases hi
  | uartWrRxtx => simp [uartStatusAfter, evTx]
  | _ => rfl

/-- Settles O28: the status after each operation is `uartStatusAfter`, read at the RX bit. -/
theorem rxStatusFollowsTheReceiveCell : Obligations.RxStatusFollowsTheReceiveCell := by
  intro i s t hi hexec
  obtain ⟨u, heffect, ht⟩ := exec_next hexec
  rw [ht, State.setResult_uart, effect_uart_status heffect]
  refine ⟨?_, ?_, fun hbyte hread hreset hsys => uartStatusAfter_rx (internal_of_external hi) hbyte hread hreset hsys _⟩
  · rintro ⟨b, rfl⟩
    simp [uartStatusAfter, evRx]
  · rintro (⟨n, rfl⟩ | rfl | rfl) <;> simp [uartStatusAfter, evRx, evTx]

end Sys2Proof.Machine
end

section
/-! SUPPORT. What an EV_PENDING write cannot clear and what ticks cannot change (70_reset_and_hazards.md R232, R233). -/

namespace Sys2Proof.Machine

/-! ## R233: an active event -/

/-- Where a clear re-latches (40_event_register_block.md R84), it leaves every bit that is enabled and active. -/
theorem clearPending_getLsbD_of_active {c : BlockConfig} (hA : c.mode = .A) (hrelatch : c.clearRelatch = true) (m : Word)
    {e : EventBlock} {k : Nat} (henable : e.enable.getLsbD k = true) (hstatus : e.status.getLsbD k = true) :
    (e.clearPending c m).pending.getLsbD k = e.pending.getLsbD k := by
  have hk : k < 32 := BitVec.lt_of_getLsbD henable
  simp [clearPending_pending_relatch c hA hrelatch, henable, hstatus, hk]

/-- Settles O35: the write is the triplet's clear, which re-latches on the UART. -/
theorem activeEventCannotBeAcknowledgedInModeA : Obligations.ActiveEventCannotBeAcknowledgedInModeA := by
  intro s t n v hA hexec k henable hstatus
  obtain ⟨-, ht⟩ := busWrite_next hexec
  rw [ht]
  exact clearPending_getLsbD_of_active (c := blockConfig s.cfg .uart) hA rfl (lowBytes n v) henable hstatus

/-! ## R232: the timer's programmed registers -/

/-- The registers of the timer that bus writes and resets alone change: VALUE, LOAD, RELOAD and EN. -/
def Timer.programmed (t : Timer) : Word × Word × Word × Bool := (t.value, t.load, t.reloadLimit, t.enabled)

theorem underflow_programmed {s u : State} (h : underflow s = .ok u) : u.timer.programmed = s.timer.programmed := by
  rcases underflow_cases s with ⟨-, h'⟩ | ⟨-, -, h'⟩ | ⟨-, -, h'⟩ <;> rw [h'] at h <;> cases h <;> rfl

theorem tick_programmed {s u : State} (h : tick s = .ok u) : u.timer.programmed = s.timer.programmed := by
  rcases tick_cases s with ⟨-, h'⟩ | ⟨-, -, h'⟩ | ⟨-, -, h'⟩ <;> rw [h'] at h
  · cases h; rfl
  · cases h; rfl
  · exact underflow_programmed (s := s.setTimer { s.timer with counter := 0#32 }) h

/-- The induction over ticks that complete: what every tick keeps, any number of ticks keeps. -/
theorem ticks_keeps {P : State → Prop} (htick : ∀ s t, P s → exec .timerInTick s = .next t → P t) {k : Nat} {s t : State}
    (hs : P s) (h : ticks k s = .next t) : P t := by
  induction k generalizing s with
  | zero =>
    obtain rfl : s = t := by simpa [ticks] using h
    exact hs
  | succ k ih =>
    rw [ticks] at h
    split at h
    · exact ih (htick _ _ hs ‹_›) h
    · cases h
    · cases h

/-- Settles O52: a tick writes none of the programmed registers and touches neither the UART nor `TXLOG`. -/
theorem snapshotSurvivesTicks : Obligations.SnapshotSurvivesTicks := by
  intro k s t hticks
  have hkept : t.timer.programmed = s.timer.programmed ∧ t.uart = s.uart ∧ t.txlog = s.txlog := by
    refine ticks_keeps (P := fun u => u.timer.programmed = s.timer.programmed ∧ u.uart = s.uart ∧ u.txlog = s.txlog) ?_
      ⟨rfl, rfl, rfl⟩ hticks
    rintro u u' ⟨htimer, huart, hlog⟩ hexec
    obtain ⟨w, heffect, hw⟩ := exec_next hexec
    obtain ⟨huart', hlog'⟩ := effect_keeps_uart (i := .timerInTick) rfl heffect
    rw [hw]
    exact ⟨(tick_programmed heffect).trans htimer, huart'.trans huart, hlog'.trans hlog⟩
  obtain ⟨htimer, huart, hlog⟩ := hkept
  simp only [Timer.programmed, Prod.mk.injEq] at htimer
  obtain ⟨hvalue, hload, hreload, henabled⟩ := htimer
  exact ⟨hvalue, hload, hreload, henabled, huart, hlog⟩

end Sys2Proof.Machine
end

section
/-! SUPPORT. The resets (70_reset_and_hazards.md R221 to R224): the state each of the three leaves, that they commute, and that the
system reset is the three in a row. -/

namespace Sys2Proof.Machine

/-! ## R221 to R223: each reset alone -/

/-- The resets of the three devices. -/
def deviceResets : List Instr := [.uartReset, .timerReset, .intcReset]

/-- The state a device's reset leaves in a legal configuration: its registers as at construction and, of a peripheral, its line low
in the controller. -/
def afterReset (s : State) : Instr → State
  | .uartReset =>
    (((s.setUart { (State.initial s.cfg).uart with rx := Config.uartRxReset s.draws }).countDraw).setIntc
      (s.intc.setLine s.cfg.wiring.uartIrqLine false)).setResult .nothing
  | .timerReset =>
    ((s.setTimer (State.initial s.cfg).timer).setIntc (s.intc.setLine s.cfg.wiring.timerIrqLine false)).setResult .nothing
  | .intcReset => (s.setIntc (State.initial s.cfg).intc).setResult .nothing
  | _ => s

theorem exec_uartReset {s : State} (h : s.cfg.legal = true) : exec .uartReset s = .next (afterReset s .uartReset) := by
  show complete .nothing (resetUart s) = _
  rw [resetUart_eq h]
  rfl

theorem exec_timerReset (s : State) : exec .timerReset s = .next (afterReset s .timerReset) := by
  show complete .nothing (resetTimer s) = _
  rw [resetTimer_eq]
  rfl

theorem exec_intcReset (s : State) : exec .intcReset s = .next (afterReset s .intcReset) := by
  show complete .nothing (resetIntc s) = _
  rw [resetIntc_eq]
  rfl

/-- Settles O43: the reset drives the line with the level of the triplet at construction, which a legal configuration has low. -/
theorem uartResetBaseline : Obligations.UartResetBaseline := by
  intro s hlegal
  have hlow : lineLevel s.cfg.uartMode { status := 0x1#32, pending := s.cfg.uartResetPending, enable := 0x0#32 } = false :=
    State.initial_level hlegal .uart
  refine ⟨_, exec_uartReset hlegal, ⟨rfl, hlow.symm, ?_, rfl, rfl, rfl, rfl, rfl⟩, rfl, rfl, rfl⟩
  rw [hlow]
  exact setLine_driven s.cfg.wiring.uartIrqLine false s.intc

/-- Settles O53: the level of a cleared triplet is low, and the line is driven with it. -/
theorem timerResetBaseline : Obligations.TimerResetBaseline := by
  intro s
  have hlow : lineLevel .A { status := 0#32, pending := 0#32, enable := 0#32 } = false := lineLevel_eq_false rfl
  refine ⟨_, exec_timerReset s, ⟨rfl, hlow.symm, ?_, rfl, rfl, rfl, rfl, rfl, rfl, rfl⟩, rfl⟩
  rw [hlow]
  exact setLine_driven s.cfg.wiring.timerIrqLine false s.intc

/-- Settles O57: the controller takes its registers of construction, and nothing else is written. -/
theorem controllerResetBaseline : Obligations.ControllerResetBaseline :=
  exec_intcReset

/-! ## R224: the system reset -/

/-- The state a system reset leaves in a legal configuration. -/
def afterSysReset (s : State) : State :=
  { State.initial s.cfg with
    uart := { (State.initial s.cfg).uart with rx := Config.uartRxReset s.draws }
    txlog := s.txlog, inbox := s.inbox, call := s.call, draws := s.draws + 1 }

theorem exec_sysReset {s : State} (h : s.cfg.legal = true) : exec .sysReset s = .next (afterSysReset s) := by
  show complete .nothing (resetIntc (resetTimer (resetUart s))) = _
  rw [resetIntc_eq, resetTimer_eq, resetUart_eq h]
  rfl

/-- Settles O58: the path is closed because what it links, the levels and the pending bits, is as at construction. -/
theorem systemResetBaseline : Obligations.SystemResetBaseline :=
  fun s hlegal => ⟨afterSysReset s, exec_sysReset hlegal, rfl, (State.initial_pathClosed hlegal :)⟩

/-! ## R224: the order of the three resets -/

/-- Lines are lowered in any order. -/
theorem setLine_low_comm (i j : Nat) (c : Intc) :
    (c.setLine i false).setLine j false = (c.setLine j false).setLine i false := by
  have hbits (a b : Word) : c.pendingBits &&& ~~~a &&& ~~~b = c.pendingBits &&& ~~~b &&& ~~~a := by
    rw [BitVec.and_assoc, BitVec.and_comm (~~~a), ← BitVec.and_assoc]
  simp [Intc.setLine, Intc.recompute, hbits (1#32 <<< i)]

/-- A line lowered in the controller at construction was low already. -/
theorem setLine_low_initial (i : Nat) (c : Config) : (State.initial c).intc.setLine i false = (State.initial c).intc := by
  simp [Intc.setLine, Intc.recompute, State.initial]

theorem afterReset_uart_timer (s : State) :
    afterReset (afterReset s .uartReset) .timerReset = afterReset (afterReset s .timerReset) .uartReset :=
  congrArg (fun c => (afterReset (afterReset s .uartReset) .timerReset).setIntc c) (setLine_low_comm _ _ s.intc)

theorem afterReset_uart_intc (s : State) :
    afterReset (afterReset s .uartReset) .intcReset = afterReset (afterReset s .intcReset) .uartReset :=
  congrArg (fun c => (afterReset (afterReset s .uartReset) .intcReset).setIntc c) (setLine_low_initial _ s.cfg).symm

theorem afterReset_timer_intc (s : State) :
    afterReset (afterReset s .timerReset) .intcReset = afterReset (afterReset s .intcReset) .timerReset :=
  congrArg (fun c => (afterReset (afterReset s .timerReset) .intcReset).setIntc c) (setLine_low_initial _ s.cfg).symm

theorem mem_deviceResets {i : Instr} : i ∈ deviceResets ↔ i = .uartReset ∨ i = .timerReset ∨ i = .intcReset := by
  simp [deviceResets]

/-- Any two resets commute: they write different devices, and of the controller both leave the lines of their devices low. -/
theorem afterReset_comm {i j : Instr} (hi : i ∈ deviceResets) (hj : j ∈ deviceResets) (s : State) :
    afterReset (afterReset s i) j = afterReset (afterReset s j) i := by
  rcases mem_deviceResets.1 hi with rfl | rfl | rfl <;> rcases mem_deviceResets.1 hj with rfl | rfl | rfl
  · rfl
  · exact afterReset_uart_timer s
  · exact afterReset_uart_intc s
  · exact (afterReset_uart_timer s).symm
  · rfl
  · exact afterReset_timer_intc s
  · exact (afterReset_uart_intc s).symm
  · exact (afterReset_timer_intc s).symm
  · rfl

theorem exec_deviceReset {i : Instr} (hi : i ∈ deviceResets) {s : State} (h : s.cfg.legal = true) :
    exec i s = .next (afterReset s i) := by
  rcases mem_deviceResets.1 hi with rfl | rfl | rfl
  · exact exec_uartReset h
  · exact exec_timerReset s
  · exact exec_intcReset s

/-- The resets of the UART, the timer and the controller in this order are the system reset. -/
theorem foldl_afterReset_deviceResets (s : State) : deviceResets.foldl afterReset s = afterSysReset s := rfl

/-- Settles O59: the resets commute, so that each order ends where the system reset's does. -/
theorem systemResetIsTheThreeResetsInAnyOrder : Obligations.SystemResetIsTheThreeResetsInAnyOrder := by
  intro s a b c hlegal (hperm : [a, b, c].Perm deviceResets)
  have hresets : ∀ i ∈ [a, b, c], i ∈ deviceResets := fun i hi => hperm.subset hi
  have hend : [a, b, c].foldl afterReset s = afterSysReset s := by
    rw [hperm.foldl_eq' fun i hi j hj u => afterReset_comm (hresets i hi) (hresets j hj) u]
    exact foldl_afterReset_deviceResets s
  have ha := exec_deviceReset (hresets a (by simp)) hlegal
  have hlegal₁ : (afterReset s a).cfg.legal = true := by rw [(exec_keeps ha).1]; exact hlegal
  have hb := exec_deviceReset (hresets b (by simp)) hlegal₁
  have hlegal₂ : (afterReset (afterReset s a) b).cfg.legal = true := by rw [(exec_keeps hb).1]; exact hlegal₁
  have hc := exec_deviceReset (hresets c (by simp)) hlegal₂
  exact ⟨_, _, _, ha, hb, hc, by rw [exec_sysReset hlegal, ← hend]; rfl⟩

end Sys2Proof.Machine
end
